-- ==== Sys2Proof/Word.lean ====
section
/-! DEFINITION. The word types of the CHIP-8 CORE (spec 00_scope.md R1, R6; 30_encoding.md R61). -/

namespace Sys2Proof

/-- One memory cell or one general register: 8 bits, unsigned (R1, R10). -/
abbrev Byte := BitVec 8

/-- An opcode, `pc`, `I`, a call-stack entry: 16 bits (R6, R12, R14, R15). -/
abbrev Word := BitVec 16

/-- The fields X, Y and N of an opcode, and a key index: 4 bits (R61, R21). -/
abbrev Nibble := BitVec 4

/-- The field NNN of an opcode: 12 bits (R61). -/
abbrev Addr := BitVec 12

/-- The register VF, V[15] (R10, R11). -/
abbrev VF : Nibble := 0xF#4

/-- A 4-bit index selects one of 16 things: "no out-of-range index exists" (R10). -/
theorem Nibble.toNat_lt (x : Nibble) : x.toNat < 16 := x.isLt

end Sys2Proof
end

