-- ==== Sys2Proof/Syntax.lean ====
section
/-! DEFINITION. The 34 operations (spec 30_encoding.md R64), one constructor for each row of spec/opcode_table.json, with the fields of R61 as operands. -/

namespace Sys2Proof

/-- An instruction of the CORE. `x` and `y` are register indexes (fields X and Y), `n`, `nn` and `nnn` the
immediate fields (R61, R67). Bits that no row examines (bits 3-0 of 5XYN and 9XYN, R66) are no operand. -/
inductive Instr where
  /-- CLS, 00E0 (R160) -/
  | cls
  /-- RET, 00EE (R100) -/
  | ret
  /-- JP NNN, 1NNN (R101) -/
  | jp (nnn : Addr)
  /-- CALL NNN, 2NNN (R102) -/
  | call (nnn : Addr)
  /-- SE VX,NN, 3XNN (R103) -/
  | seImm (x : Nibble) (nn : Byte)
  /-- SNE VX,NN, 4XNN (R104) -/
  | sneImm (x : Nibble) (nn : Byte)
  /-- SE VX,VY, 5XY- (R105) -/
  | seReg (x y : Nibble)
  /-- SNE VX,VY, 9XY- (R106) -/
  | sneReg (x y : Nibble)
  /-- LD VX,NN, 6XNN (R120) -/
  | ldImm (x : Nibble) (nn : Byte)
  /-- ADD VX,NN, 7XNN (R121) -/
  | addImm (x : Nibble) (nn : Byte)
  /-- LD VX,VY, 8XY0 (R122) -/
  | ldReg (x y : Nibble)
  /-- OR VX,VY, 8XY1 (R123) -/
  | orReg (x y : Nibble)
  /-- AND VX,VY, 8XY2 (R124) -/
  | andReg (x y : Nibble)
  /-- XOR VX,VY, 8XY3 (R125) -/
  | xorReg (x y : Nibble)
  /-- ADD VX,VY, 8XY4 (R126) -/
  | addReg (x y : Nibble)
  /-- SUB VX,VY, 8XY5 (R127) -/
  | subReg (x y : Nibble)
  /-- SHR VX, 8XY6; `y` is used only under SHIFT_USES_VY (R129) -/
  | shr (x y : Nibble)
  /-- SUBN VX,VY, 8XY7 (R130) -/
  | subnReg (x y : Nibble)
  /-- SHL VX, 8XYE; `y` is used only under SHIFT_USES_VY (R131) -/
  | shl (x y : Nibble)
  /-- LD I,NNN, ANNN (R140) -/
  | ldI (nnn : Addr)
  /-- JP V0,NNN, BNNN (R108) -/
  | jpV0 (nnn : Addr)
  /-- RND VX,NN, CXNN (R132) -/
  | rnd (x : Nibble) (nn : Byte)
  /-- DRW VX,VY,N, DXYN (R161) -/
  | drw (x y n : Nibble)
  /-- SKP VX, EX9E (R170) -/
  | skp (x : Nibble)
  /-- SKNP VX, EXA1 (R171) -/
  | sknp (x : Nibble)
  /-- LD VX,DT, FX07 (R172) -/
  | ldVxDt (x : Nibble)
  /-- LD VX,K, FX0A (R173) -/
  | ldVxK (x : Nibble)
  /-- LD DT,VX, FX15 (R174) -/
  | ldDtVx (x : Nibble)
  /-- LD ST,VX, FX18 (R175) -/
  | ldStVx (x : Nibble)
  /-- ADD I,VX, FX1E (R141) -/
  | addI (x : Nibble)
  /-- LD F,VX, FX29 (R142) -/
  | ldF (x : Nibble)
  /-- LD B,VX, FX33 (R143) -/
  | ldB (x : Nibble)
  /-- LD [I],VX, FX55; X is a count, V0 to VX inclusive (R144) -/
  | storeRegs (x : Nibble)
  /-- LD VX,[I], FX65; X is a count, V0 to VX inclusive (R145) -/
  | loadRegs (x : Nibble)
deriving DecidableEq, Repr

end Sys2Proof
end

