-- ==== Sys2Proof/WellFormed.lean ====
section
/-! DEFINITION. Well-formedness (spec 30_encoding.md R61, R67, R68): the assembler form of an instruction with plain numbers, its check, and what an instruction's form is. The operands of `Instr` carry their ranges in their types, so the checks that a term can fail are on the assembler form. -/

namespace Sys2Proof

/-- The mnemonics of the source's forms (R68); LD, ADD, SE, SNE and JP are overloaded. -/
inductive Mnemonic where
  | CLS | RET | JP | CALL | SE | SNE | LD | ADD | OR | AND | XOR | SUB | SHR | SUBN | SHL | RND | DRW | SKP | SKNP
deriving DecidableEq, Repr

/-- An operand as it is written (R67, R68): a register V0 to VF, a number, or one of the fixed operand names. -/
inductive Operand where
  | reg (k : Nat)
  | num (n : Nat)
  | I | DT | ST | K | F | B
  /-- `[I]` -/
  | atI
deriving DecidableEq, Repr

/-- One assembler line: a mnemonic and its operands (R68). -/
structure AsmLine where
  mnemonic : Mnemonic
  operands : List Operand
deriving DecidableEq, Repr

/-- The line has one of the 34 forms of R68, its registers are V0 to VF, and its numbers fit their fields
(NNN 12 bits, NN 8 bits, N 4 bits; R61). The shifts may be written with one operand or with two (R68). -/
def AsmLine.wellFormed (l : AsmLine) : Bool :=
  match l.mnemonic, l.operands with
  | .CLS, [] => true
  | .RET, [] => true
  | .JP, [.num n] => decide (n < 0x1000)
  | .JP, [.reg k, .num n] => decide (k = 0 ∧ n < 0x1000)
  | .CALL, [.num n] => decide (n < 0x1000)
  | .SE, [.reg x, .num n] => decide (x < 16 ∧ n < 0x100)
  | .SE, [.reg x, .reg y] => decide (x < 16 ∧ y < 16)
  | .SNE, [.reg x, .num n] => decide (x < 16 ∧ n < 0x100)
  | .SNE, [.reg x, .reg y] => decide (x < 16 ∧ y < 16)
  | .LD, [.reg x, .num n] => decide (x < 16 ∧ n < 0x100)
  | .LD, [.reg x, .reg y] => decide (x < 16 ∧ y < 16)
  | .LD, [.I, .num n] => decide (n < 0x1000)
  | .LD, [.reg x, .DT] => decide (x < 16)
  | .LD, [.reg x, .K] => decide (x < 16)
  | .LD, [.DT, .reg x] => decide (x < 16)
  | .LD, [.ST, .reg x] => decide (x < 16)
  | .LD, [.F, .reg x] => decide (x < 16)
  | .LD, [.B, .reg x] => decide (x < 16)
  | .LD, [.atI, .reg x] => decide (x < 16)
  | .LD, [.reg x, .atI] => decide (x < 16)
  | .ADD, [.reg x, .num n] => decide (x < 16 ∧ n < 0x100)
  | .ADD, [.reg x, .reg y] => decide (x < 16 ∧ y < 16)
  | .ADD, [.I, .reg x] => decide (x < 16)
  | .OR, [.reg x, .reg y] => decide (x < 16 ∧ y < 16)
  | .AND, [.reg x, .reg y] => decide (x < 16 ∧ y < 16)
  | .XOR, [.reg x, .reg y] => decide (x < 16 ∧ y < 16)
  | .SUB, [.reg x, .reg y] => decide (x < 16 ∧ y < 16)
  | .SUBN, [.reg x, .reg y] => decide (x < 16 ∧ y < 16)
  | .SHR, [.reg x] => decide (x < 16)
  | .SHR, [.reg x, .reg y] => decide (x < 16 ∧ y < 16)
  | .SHL, [.reg x] => decide (x < 16)
  | .SHL, [.reg x, .reg y] => decide (x < 16 ∧ y < 16)
  | .RND, [.reg x, .num n] => decide (x < 16 ∧ n < 0x100)
  | .DRW, [.reg x, .reg y, .num n] => decide (x < 16 ∧ y < 16 ∧ n < 16)
  | .SKP, [.reg x] => decide (x < 16)
  | .SKNP, [.reg x] => decide (x < 16)
  | _, _ => false

/-- The assembler form of an instruction (R68). With `twoOperandShifts` the shifts are written with both
operands, as R68 does when SHIFT_USES_VY is true; without it the Y field of a shift is not written. -/
def Instr.toAsm (twoOperandShifts : Bool) (i : Instr) : AsmLine :=
  match i with
  | .cls => ⟨.CLS, []⟩
  | .ret => ⟨.RET, []⟩
  | .jp nnn => ⟨.JP, [.num nnn.toNat]⟩
  | .call nnn => ⟨.CALL, [.num nnn.toNat]⟩
  | .seImm x nn => ⟨.SE, [.reg x.toNat, .num nn.toNat]⟩
  | .sneImm x nn => ⟨.SNE, [.reg x.toNat, .num nn.toNat]⟩
  | .seReg x y => ⟨.SE, [.reg x.toNat, .reg y.toNat]⟩
  | .sneReg x y => ⟨.SNE, [.reg x.toNat, .reg y.toNat]⟩
  | .ldImm x nn => ⟨.LD, [.reg x.toNat, .num nn.toNat]⟩
  | .addImm x nn => ⟨.ADD, [.reg x.toNat, .num nn.toNat]⟩
  | .ldReg x y => ⟨.LD, [.reg x.toNat, .reg y.toNat]⟩
  | .orReg x y => ⟨.OR, [.reg x.toNat, .reg y.toNat]⟩
  | .andReg x y => ⟨.AND, [.reg x.toNat, .reg y.toNat]⟩
  | .xorReg x y => ⟨.XOR, [.reg x.toNat, .reg y.toNat]⟩
  | .addReg x y => ⟨.ADD, [.reg x.toNat, .reg y.toNat]⟩
  | .subReg x y => ⟨.SUB, [.reg x.toNat, .reg y.toNat]⟩
  | .shr x y => ⟨.SHR, if twoOperandShifts then [.reg x.toNat, .reg y.toNat] else [.reg x.toNat]⟩
  | .subnReg x y => ⟨.SUBN, [.reg x.toNat, .reg y.toNat]⟩
  | .shl x y => ⟨.SHL, if twoOperandShifts then [.reg x.toNat, .reg y.toNat] else [.reg x.toNat]⟩
  | .ldI nnn => ⟨.LD, [.I, .num nnn.toNat]⟩
  | .jpV0 nnn => ⟨.JP, [.reg 0, .num nnn.toNat]⟩
  | .rnd x nn => ⟨.RND, [.reg x.toNat, .num nn.toNat]⟩
  | .drw x y n => ⟨.DRW, [.reg x.toNat, .reg y.toNat, .num n.toNat]⟩
  | .skp x => ⟨.SKP, [.reg x.toNat]⟩
  | .sknp x => ⟨.SKNP, [.reg x.toNat]⟩
  | .ldVxDt x => ⟨.LD, [.reg x.toNat, .DT]⟩
  | .ldVxK x => ⟨.LD, [.reg x.toNat, .K]⟩
  | .ldDtVx x => ⟨.LD, [.DT, .reg x.toNat]⟩
  | .ldStVx x => ⟨.LD, [.ST, .reg x.toNat]⟩
  | .addI x => ⟨.ADD, [.I, .reg x.toNat]⟩
  | .ldF x => ⟨.LD, [.F, .reg x.toNat]⟩
  | .ldB x => ⟨.LD, [.B, .reg x.toNat]⟩
  | .storeRegs x => ⟨.LD, [.atI, .reg x.toNat]⟩
  | .loadRegs x => ⟨.LD, [.reg x.toNat, .atI]⟩

/-- An instruction is well formed when its assembler form is. Every term of `Instr` is: its operands are as
wide as their fields, and no operand value is reserved (R61, R65); `Sys2Proof.Laws.WellFormed` proves it. -/
def Instr.wellFormed (i : Instr) : Bool :=
  (i.toAsm true).wellFormed

end Sys2Proof
end

