-- ==== Sys2Proof/Decode.lean ====
section
/-! DEFINITION. The decoder (spec 30_encoding.md R60 to R66), the encoder, the opcode map as data (R64), and the assembler (R68). -/

namespace Sys2Proof

/-- `hi ++ lo`: the two bytes of an instruction as one big-endian 16-bit word (20_memory.md R42). -/
def wordOfBytes (hi lo : Byte) : Word :=
  hi ++ lo

/-- The byte at the lower address: opcode bits 15 to 8 (R42, R62). -/
def highByte (w : Word) : Byte :=
  w.extractLsb' 8 8

/-- The byte at the higher address: opcode bits 7 to 0 (R42, R62). -/
def lowByte (w : Word) : Byte :=
  w.extractLsb' 0 8

/-- The group selector G, bits 15-12 (R61). -/
def fieldG (op : Word) : Nibble :=
  op.extractLsb' 12 4

/-- X, bits 11-8 (R7, R61). -/
def fieldX (op : Word) : Nibble :=
  op.extractLsb' 8 4

/-- Y, bits 7-4 (R7, R61). -/
def fieldY (op : Word) : Nibble :=
  op.extractLsb' 4 4

/-- N, bits 3-0 (R7, R61). -/
def fieldN (op : Word) : Nibble :=
  op.extractLsb' 0 4

/-- NN, bits 7-0 (R7, R61). -/
def fieldNN (op : Word) : Byte :=
  op.extractLsb' 0 8

/-- NNN, bits 11-0 (R7, R61). -/
def fieldNNN (op : Word) : Addr :=
  op.extractLsb' 0 12

/-- Why bytes are no instruction. The four `unrecognized` names are the four groups of the UNRECOGNIZED set of
R65; `truncated` is said of fewer than two bytes (R60). -/
inductive Reject where
  | unrecognizedGroup0
  | unrecognizedGroup8
  | unrecognizedGroupE
  | unrecognizedGroupF
  | truncated
deriving DecidableEq, Repr

/-- Group 0: all 16 bits must match (R63, R66; D4). -/
def decodeGroup0 (op : Word) : Except Reject Instr :=
  if op = 0x00E0#16 then .ok .cls
  else if op = 0x00EE#16 then .ok .ret
  else .error .unrecognizedGroup0

/-- Group 8 is selected by the low nibble (R63; D6). -/
def decodeGroup8 (x y n : Nibble) : Except Reject Instr :=
  if n = 0x0#4 then .ok (.ldReg x y)
  else if n = 0x1#4 then .ok (.orReg x y)
  else if n = 0x2#4 then .ok (.andReg x y)
  else if n = 0x3#4 then .ok (.xorReg x y)
  else if n = 0x4#4 then .ok (.addReg x y)
  else if n = 0x5#4 then .ok (.subReg x y)
  else if n = 0x6#4 then .ok (.shr x y)
  else if n = 0x7#4 then .ok (.subnReg x y)
  else if n = 0xE#4 then .ok (.shl x y)
  else .error .unrecognizedGroup8

/-- Group E is selected by the low byte (R63; D6). -/
def decodeGroupE (x : Nibble) (nn : Byte) : Except Reject Instr :=
  if nn = 0x9E#8 then .ok (.skp x)
  else if nn = 0xA1#8 then .ok (.sknp x)
  else .error .unrecognizedGroupE

/-- Group F is selected by the low byte (R63; D6). -/
def decodeGroupF (x : Nibble) (nn : Byte) : Except Reject Instr :=
  if nn = 0x07#8 then .ok (.ldVxDt x)
  else if nn = 0x0A#8 then .ok (.ldVxK x)
  else if nn = 0x15#8 then .ok (.ldDtVx x)
  else if nn = 0x18#8 then .ok (.ldStVx x)
  else if nn = 0x1E#8 then .ok (.addI x)
  else if nn = 0x29#8 then .ok (.ldF x)
  else if nn = 0x33#8 then .ok (.ldB x)
  else if nn = 0x55#8 then .ok (.storeRegs x)
  else if nn = 0x65#8 then .ok (.loadRegs x)
  else .error .unrecognizedGroupF

/-- The decoder of R63, total on the 65536 words: one of 34 operations with its fields, or UNRECOGNIZED. -/
def decodeWord (op : Word) : Except Reject Instr :=
  let g := fieldG op
  if g = 0x0#4 then decodeGroup0 op
  else if g = 0x1#4 then .ok (.jp (fieldNNN op))
  else if g = 0x2#4 then .ok (.call (fieldNNN op))
  else if g = 0x3#4 then .ok (.seImm (fieldX op) (fieldNN op))
  else if g = 0x4#4 then .ok (.sneImm (fieldX op) (fieldNN op))
  else if g = 0x5#4 then .ok (.seReg (fieldX op) (fieldY op))
  else if g = 0x6#4 then .ok (.ldImm (fieldX op) (fieldNN op))
  else if g = 0x7#4 then .ok (.addImm (fieldX op) (fieldNN op))
  else if g = 0x8#4 then decodeGroup8 (fieldX op) (fieldY op) (fieldN op)
  else if g = 0x9#4 then .ok (.sneReg (fieldX op) (fieldY op))
  else if g = 0xA#4 then .ok (.ldI (fieldNNN op))
  else if g = 0xB#4 then .ok (.jpV0 (fieldNNN op))
  else if g = 0xC#4 then .ok (.rnd (fieldX op) (fieldNN op))
  else if g = 0xD#4 then .ok (.drw (fieldX op) (fieldY op) (fieldN op))
  else if g = 0xE#4 then decodeGroupE (fieldX op) (fieldNN op)
  else decodeGroupF (fieldX op) (fieldNN op)

/-- The decoder on bytes, lowest address first: one instruction of two bytes (R60, R42) and the rest. -/
def decodeBytes (bytes : List Byte) : Except Reject (Instr × List Byte) :=
  match bytes with
  | hi :: lo :: rest => (decodeWord (wordOfBytes hi lo)).map fun i => (i, rest)
  | _ => .error .truncated

/-- A word of `nbits` bits, numbered as spec/opcode_table.json numbers them, as the 16-bit opcode: the bits above
`nbits` are 0. -/
def tableWord (nbits w : Nat) : Word :=
  BitVec.ofNat 16 (w % 2 ^ nbits)

/-- What the decoder reads from the two bytes of that word as memory holds them. -/
def decodeTableWord (nbits w : Nat) : Option Instr :=
  match decodeBytes [highByte (tableWord nbits w), lowByte (tableWord nbits w)] with
  | .ok (i, _) => some i
  | .error _ => none

/-- Format NNN of R62: `G ++ NNN`. -/
def formatNNN (g : Nibble) (nnn : Addr) : Word :=
  g ++ nnn

/-- Format XNN of R62, and format X with its low byte as the secondary selector: `G ++ X ++ NN`. -/
def formatXNN (g x : Nibble) (nn : Byte) : Word :=
  g ++ (x ++ nn)

/-- Formats XY and XYN of R62: `G ++ X ++ Y ++ N`. -/
def formatXYN (g x y n : Nibble) : Word :=
  g ++ (x ++ (y ++ n))

/-- The canonical word of an instruction, from the patterns of R64; bits that are not examined are 0 (R66). -/
def encode (i : Instr) : Word :=
  match i with
  | .cls => 0x00E0#16
  | .ret => 0x00EE#16
  | .jp nnn => formatNNN 0x1#4 nnn
  | .call nnn => formatNNN 0x2#4 nnn
  | .seImm x nn => formatXNN 0x3#4 x nn
  | .sneImm x nn => formatXNN 0x4#4 x nn
  | .seReg x y => formatXYN 0x5#4 x y 0x0#4
  | .sneReg x y => formatXYN 0x9#4 x y 0x0#4
  | .ldImm x nn => formatXNN 0x6#4 x nn
  | .addImm x nn => formatXNN 0x7#4 x nn
  | .ldReg x y => formatXYN 0x8#4 x y 0x0#4
  | .orReg x y => formatXYN 0x8#4 x y 0x1#4
  | .andReg x y => formatXYN 0x8#4 x y 0x2#4
  | .xorReg x y => formatXYN 0x8#4 x y 0x3#4
  | .addReg x y => formatXYN 0x8#4 x y 0x4#4
  | .subReg x y => formatXYN 0x8#4 x y 0x5#4
  | .shr x y => formatXYN 0x8#4 x y 0x6#4
  | .subnReg x y => formatXYN 0x8#4 x y 0x7#4
  | .shl x y => formatXYN 0x8#4 x y 0xE#4
  | .ldI nnn => formatNNN 0xA#4 nnn
  | .jpV0 nnn => formatNNN 0xB#4 nnn
  | .rnd x nn => formatXNN 0xC#4 x nn
  | .drw x y n => formatXYN 0xD#4 x y n
  | .skp x => formatXNN 0xE#4 x 0x9E#8
  | .sknp x => formatXNN 0xE#4 x 0xA1#8
  | .ldVxDt x => formatXNN 0xF#4 x 0x07#8
  | .ldVxK x => formatXNN 0xF#4 x 0x0A#8
  | .ldDtVx x => formatXNN 0xF#4 x 0x15#8
  | .ldStVx x => formatXNN 0xF#4 x 0x18#8
  | .addI x => formatXNN 0xF#4 x 0x1E#8
  | .ldF x => formatXNN 0xF#4 x 0x29#8
  | .ldB x => formatXNN 0xF#4 x 0x33#8
  | .storeRegs x => formatXNN 0xF#4 x 0x55#8
  | .loadRegs x => formatXNN 0xF#4 x 0x65#8

/-- One row of the opcode map (R64): an opcode `op` selects the row iff `op & mask = pattern`. -/
structure OpcodeRow where
  mnemonic : String
  pattern : Word
  mask : Word
deriving DecidableEq, Repr

/-- The opcode selects the row (R64). -/
def OpcodeRow.selects (r : OpcodeRow) (op : Word) : Bool :=
  op &&& r.mask == r.pattern

/-- The opcode map of R64, in its order. -/
def opcodeTable : List OpcodeRow :=
  [⟨"CLS", 0x00E0#16, 0xFFFF#16⟩, ⟨"RET", 0x00EE#16, 0xFFFF#16⟩, ⟨"JP NNN", 0x1000#16, 0xF000#16⟩,
   ⟨"CALL NNN", 0x2000#16, 0xF000#16⟩, ⟨"SE VX,NN", 0x3000#16, 0xF000#16⟩, ⟨"SNE VX,NN", 0x4000#16, 0xF000#16⟩,
   ⟨"SE VX,VY", 0x5000#16, 0xF000#16⟩, ⟨"SNE VX,VY", 0x9000#16, 0xF000#16⟩, ⟨"LD VX,NN", 0x6000#16, 0xF000#16⟩,
   ⟨"ADD VX,NN", 0x7000#16, 0xF000#16⟩, ⟨"LD VX,VY", 0x8000#16, 0xF00F#16⟩, ⟨"OR VX,VY", 0x8001#16, 0xF00F#16⟩]
  ++ [⟨"AND VX,VY", 0x8002#16, 0xF00F#16⟩, ⟨"XOR VX,VY", 0x8003#16, 0xF00F#16⟩, ⟨"ADD VX,VY", 0x8004#16, 0xF00F#16⟩,
   ⟨"SUB VX,VY", 0x8005#16, 0xF00F#16⟩, ⟨"SHR VX", 0x8006#16, 0xF00F#16⟩, ⟨"SUBN VX,VY", 0x8007#16, 0xF00F#16⟩,
   ⟨"SHL VX", 0x800E#16, 0xF00F#16⟩, ⟨"LD I,NNN", 0xA000#16, 0xF000#16⟩, ⟨"JP V0,NNN", 0xB000#16, 0xF000#16⟩,
   ⟨"RND VX,NN", 0xC000#16, 0xF000#16⟩, ⟨"DRW VX,VY,N", 0xD000#16, 0xF000#16⟩]
  ++ [⟨"SKP VX", 0xE09E#16, 0xF0FF#16⟩, ⟨"SKNP VX", 0xE0A1#16, 0xF0FF#16⟩, ⟨"LD VX,DT", 0xF007#16, 0xF0FF#16⟩,
   ⟨"LD VX,K", 0xF00A#16, 0xF0FF#16⟩, ⟨"LD DT,VX", 0xF015#16, 0xF0FF#16⟩, ⟨"LD ST,VX", 0xF018#16, 0xF0FF#16⟩,
   ⟨"ADD I,VX", 0xF01E#16, 0xF0FF#16⟩, ⟨"LD F,VX", 0xF029#16, 0xF0FF#16⟩, ⟨"LD B,VX", 0xF033#16, 0xF0FF#16⟩,
   ⟨"LD [I],VX", 0xF055#16, 0xF0FF#16⟩, ⟨"LD VX,[I]", 0xF065#16, 0xF0FF#16⟩]

/-- The number of an instruction's row in R64, counted from 0. -/
def rowNumber (i : Instr) : Fin 34 :=
  match i with
  | .cls => 0
  | .ret => 1
  | .jp _ => 2
  | .call _ => 3
  | .seImm _ _ => 4
  | .sneImm _ _ => 5
  | .seReg _ _ => 6
  | .sneReg _ _ => 7
  | .ldImm _ _ => 8
  | .addImm _ _ => 9
  | .ldReg _ _ => 10
  | .orReg _ _ => 11
  | .andReg _ _ => 12
  | .xorReg _ _ => 13
  | .addReg _ _ => 14
  | .subReg _ _ => 15
  | .shr _ _ => 16
  | .subnReg _ _ => 17
  | .shl _ _ => 18
  | .ldI _ => 19
  | .jpV0 _ => 20
  | .rnd _ _ => 21
  | .drw _ _ _ => 22
  | .skp _ => 23
  | .sknp _ => 24
  | .ldVxDt _ => 25
  | .ldVxK _ => 26
  | .ldDtVx _ => 27
  | .ldStVx _ => 28
  | .addI _ => 29
  | .ldF _ => 30
  | .ldB _ => 31
  | .storeRegs _ => 32
  | .loadRegs _ => 33

/-- The row of R64 that an instruction belongs to. -/
def opcodeRow (i : Instr) : OpcodeRow :=
  opcodeTable[(rowNumber i).val]'(rowNumber i).isLt

/-- The bits of an opcode that its instruction's operation does not depend on for any setting: bits 3-0 of
SE VX,VY and SNE VX,VY (R66). Every other bit is fixed or an operand. -/
def examinedBits (i : Instr) : Word :=
  match i with
  | .seReg _ _ | .sneReg _ _ => 0xFFF0#16
  | _ => 0xFFFF#16

/-- The assembler of the forms of R68: the operand shapes select the operation. A shift with one operand has
Y = 0, the canonical encoding of R66 (log 30). It answers none for a line that is not well formed. -/
def assemble (l : AsmLine) : Option Instr :=
  if l.wellFormed then
    match l.mnemonic, l.operands with
    | .CLS, [] => some .cls
    | .RET, [] => some .ret
    | .JP, [.num n] => some (.jp (BitVec.ofNat 12 n))
    | .JP, [.reg _, .num n] => some (.jpV0 (BitVec.ofNat 12 n))
    | .CALL, [.num n] => some (.call (BitVec.ofNat 12 n))
    | .SE, [.reg x, .num n] => some (.seImm (BitVec.ofNat 4 x) (BitVec.ofNat 8 n))
    | .SE, [.reg x, .reg y] => some (.seReg (BitVec.ofNat 4 x) (BitVec.ofNat 4 y))
    | .SNE, [.reg x, .num n] => some (.sneImm (BitVec.ofNat 4 x) (BitVec.ofNat 8 n))
    | .SNE, [.reg x, .reg y] => some (.sneReg (BitVec.ofNat 4 x) (BitVec.ofNat 4 y))
    | .LD, [.reg x, .num n] => some (.ldImm (BitVec.ofNat 4 x) (BitVec.ofNat 8 n))
    | .LD, [.reg x, .reg y] => some (.ldReg (BitVec.ofNat 4 x) (BitVec.ofNat 4 y))
    | .LD, [.I, .num n] => some (.ldI (BitVec.ofNat 12 n))
    | .LD, [.reg x, .DT] => some (.ldVxDt (BitVec.ofNat 4 x))
    | .LD, [.reg x, .K] => some (.ldVxK (BitVec.ofNat 4 x))
    | .LD, [.DT, .reg x] => some (.ldDtVx (BitVec.ofNat 4 x))
    | .LD, [.ST, .reg x] => some (.ldStVx (BitVec.ofNat 4 x))
    | .LD, [.F, .reg x] => some (.ldF (BitVec.ofNat 4 x))
    | .LD, [.B, .reg x] => some (.ldB (BitVec.ofNat 4 x))
    | .LD, [.atI, .reg x] => some (.storeRegs (BitVec.ofNat 4 x))
    | .LD, [.reg x, .atI] => some (.loadRegs (BitVec.ofNat 4 x))
    | .ADD, [.reg x, .num n] => some (.addImm (BitVec.ofNat 4 x) (BitVec.ofNat 8 n))
    | .ADD, [.reg x, .reg y] => some (.addReg (BitVec.ofNat 4 x) (BitVec.ofNat 4 y))
    | .ADD, [.I, .reg x] => some (.addI (BitVec.ofNat 4 x))
    | .OR, [.reg x, .reg y] => some (.orReg (BitVec.ofNat 4 x) (BitVec.ofNat 4 y))
    | .AND, [.reg x, .reg y] => some (.andReg (BitVec.ofNat 4 x) (BitVec.ofNat 4 y))
    | .XOR, [.reg x, .reg y] => some (.xorReg (BitVec.ofNat 4 x) (BitVec.ofNat 4 y))
    | .SUB, [.reg x, .reg y] => some (.subReg (BitVec.ofNat 4 x) (BitVec.ofNat 4 y))
    | .SUBN, [.reg x, .reg y] => some (.subnReg (BitVec.ofNat 4 x) (BitVec.ofNat 4 y))
    | .SHR, [.reg x] => some (.shr (BitVec.ofNat 4 x) 0)
    | .SHR, [.reg x, .reg y] => some (.shr (BitVec.ofNat 4 x) (BitVec.ofNat 4 y))
    | .SHL, [.reg x] => some (.shl (BitVec.ofNat 4 x) 0)
    | .SHL, [.reg x, .reg y] => some (.shl (BitVec.ofNat 4 x) (BitVec.ofNat 4 y))
    | .RND, [.reg x, .num n] => some (.rnd (BitVec.ofNat 4 x) (BitVec.ofNat 8 n))
    | .DRW, [.reg x, .reg y, .num n] => some (.drw (BitVec.ofNat 4 x) (BitVec.ofNat 4 y) (BitVec.ofNat 4 n))
    | .SKP, [.reg x] => some (.skp (BitVec.ofNat 4 x))
    | .SKNP, [.reg x] => some (.sknp (BitVec.ofNat 4 x))
    | _, _ => none
  else none

end Sys2Proof
end

