-- ==== Sys2Proof/Config.lean ====
section
/-! DEFINITION. What the spec leaves to the instance: the two parameters (00_scope.md R3, R4) and the free value of RND (R5). -/

namespace Sys2Proof

/-- The parameters of one instance, fixed at construction and never changed by any operation
(R3, R4, R27; log 1). -/
structure Config where
  /-- `SHIFT_USES_VY` (R3): whether SHR and SHL take their input from VY. -/
  shiftUsesVY : Bool
  /-- `FONT` (R4): the 80 bytes that reset puts at 0x050. -/
  font : Vector Byte 80
deriving DecidableEq, Repr

/-- FREE VALUE. The byte that the `n`-th random draw gives: "a fresh, unconstrained 8-bit value" (R5, R25).
It has no body, so no proof can know a value of it (log 2). -/
opaque Config.drawByte (n : Nat) : Byte

end Sys2Proof
end

