-- ==== Sys2Proof/Machine/Font.lean ====
section
/-! DEFINITION. The default font table (spec 10_state.md R22), the default parameters (00_scope.md R3, R4), and what memory reads as at reset (10_state.md R19). -/

namespace Sys2Proof.Machine

/-- The glyphs of the digits 0 to F, five rows each, top row first (R22; the bytes are G2, log 4). -/
def fontTable : Vector Byte 80 :=
  (#v[0xF0, 0x90, 0x90, 0x90, 0xF0,  0x20, 0x60, 0x20, 0x20, 0x70,
      0xF0, 0x10, 0xF0, 0x80, 0xF0,  0xF0, 0x10, 0xF0, 0x10, 0xF0] : Vector Byte 20)
  ++ (#v[0x90, 0x90, 0xF0, 0x10, 0x10,  0xF0, 0x80, 0xF0, 0x10, 0xF0,
      0xF0, 0x80, 0xF0, 0x90, 0xF0,  0xF0, 0x10, 0x20, 0x40, 0x40] : Vector Byte 20)
  ++ (#v[0xF0, 0x90, 0xF0, 0x90, 0xF0,  0xF0, 0x90, 0xF0, 0x10, 0xF0,
      0xF0, 0x90, 0xF0, 0x90, 0x90,  0xE0, 0x90, 0xE0, 0x90, 0xE0] : Vector Byte 20)
  ++ (#v[0xF0, 0x80, 0x80, 0x80, 0xF0,  0xE0, 0x90, 0x90, 0x90, 0xE0,
      0xF0, 0x80, 0xF0, 0x80, 0xF0,  0xF0, 0x80, 0xF0, 0x80, 0x80] : Vector Byte 20)

/-- The default parameters: the shifts ignore VY (R3), and the table of R22 is the font (R4) (log 1). -/
def defaultConfig : Config where
  shiftUsesVY := false
  font := fontTable

/-- What a byte of memory that nothing has written reads as: the default font at 0x050 to 0x09F, 0x00 elsewhere
(R19, R41; D24; log 5). -/
def resetByte (a : Nat) : Byte :=
  if h : 0x050 ≤ a ∧ a < 0x0A0 then fontTable[a - 0x050]'(by omega) else 0

end Sys2Proof.Machine
end

