-- ==== Sys2Proof/Machine/State.lean ====
section
/-! DEFINITION. The state of the CORE (spec 10_state.md), the reasons a step can stop, and the state after reset (R28). -/

namespace Sys2Proof.Machine

/-- Main memory (R19): the cells that differ from `resetByte`, in strictly rising order of address. -/
abbrev Memory := List Host.Cell

/-- The framebuffer (R20): 32 rows from the top, each of 64 columns from the left; true is on. -/
abbrev Framebuffer := Vector (Vector Bool 64) 32

/-- The codes of the error status register (R31, R210). -/
inductive ErrCode where
  /-- NONE = 0: no error, the instance is not halted. -/
  | noError
  /-- STACK_OVERFLOW = 1, raised by CALL with sp = 16 (R102). -/
  | stackOverflow
  /-- STACK_UNDERFLOW = 2, raised by RET with sp = 0 (R100). -/
  | stackUnderflow
  /-- FETCH_OUT_OF_RANGE = 3, raised by Step with pc above 0x0FFE (R82). -/
  | fetchOutOfRange
  /-- DATA_OUT_OF_RANGE = 4, raised by DRW, LD B, LD [I],VX and LD VX,[I] (R43). -/
  | dataOutOfRange
deriving DecidableEq, Repr

/-- The state of one instance. Every field but `cfg` and `draws` is architectural state of 10_state.md. -/
structure State where
  /-- The general registers V0 to VF (R10); V[15] is also the flag output (R11). -/
  V : Vector Byte 16
  /-- The program counter (R12, R13). -/
  pc : Word
  /-- The index register (R14). -/
  I : Word
  /-- The call stack (R15). -/
  stack : Vector Word 16
  /-- The stack depth, 0 to 16, the index of the next free entry (R16). -/
  sp : Fin 17
  /-- The delay timer (R17). -/
  DT : Byte
  /-- The sound timer (R18). -/
  ST : Byte
  /-- Main memory (R19, R22). -/
  mem : Memory
  /-- The framebuffer (R20). -/
  fb : Framebuffer
  /-- The keypad inputs; true is pressed (R21). -/
  key : Vector Bool 16
  /-- Blocked awaiting a key (R30). -/
  wait : Bool
  /-- The X field of the LD VX,K that blocked (R30). -/
  waitX : Nibble
  /-- The error status register; anything but `noError` is the halted state (R31). -/
  err : ErrCode
  /-- The value recorded with the error (R31, R211). -/
  errInfo : Word
  /-- The opcode most recently fetched (R23). -/
  IR : Word
  /-- The unrecognized opcodes, oldest first (R24). -/
  diag : List Word
  /-- MODEL'S OWN: the parameters of the instance, constant in every transition (R27; log 1). -/
  cfg : Config
  /-- MODEL'S OWN: how many random bytes have been drawn (R25; log 2). -/
  draws : Nat
deriving DecidableEq, Repr

/-- No path of the model faults: each fatal error of R210 has a next state that the spec gives (R213). -/
inductive Fault where
deriving DecidableEq, Repr

/-- Why a step has no meaning. -/
inductive Refusal where
  /-- Raised by an arm of `exec` whose instruction has no meaning yet; safe. No arm uses it. -/
  | notModelled (mnemonic : String)
deriving DecidableEq, Repr

/-- The state after construction with the default parameters (R28, R240; the zeros are D24, log 3). Memory has
nothing listed: `resetByte` gives its reset contents. -/
def State.reset : State where
  V := Vector.replicate 16 0
  pc := 0x0200
  I := 0
  stack := Vector.replicate 16 0
  sp := 0
  DT := 0
  ST := 0
  mem := []
  fb := Vector.replicate 32 (Vector.replicate 64 false)
  key := Vector.replicate 16 false
  wait := false
  waitX := 0
  err := .noError
  errInfo := 0
  IR := 0
  diag := []
  cfg := defaultConfig
  draws := 0

end Sys2Proof.Machine
end

