-- ==== Sys2Proof/Machine/Ops.lean ====
section
/-! DEFINITION. The named operations over memory, registers, stack, framebuffer and error latch that the meanings share. -/

namespace Sys2Proof.Machine

/-! ### Main memory (spec 20_memory.md) -/

/-- `mem[a]`: the byte last written at `a`, or its reset contents (R44). -/
def memRead (m : Memory) (a : Nat) : Byte :=
  match m with
  | [] => resetByte a
  | (k, b) :: rest => if k = a then b else memRead rest a

/-- The list without an entry for `a`. -/
def memErase (m : Memory) (a : Nat) : Memory :=
  match m with
  | [] => []
  | (k, c) :: rest => if k = a then memErase rest a else (k, c) :: memErase rest a

/-- An entry for `a` put before the first entry of a higher address. -/
def memInsert (m : Memory) (a : Nat) (b : Byte) : Memory :=
  match m with
  | [] => [(a, b)]
  | (k, c) :: rest => if k < a then (k, c) :: memInsert rest a b else (a, b) :: (k, c) :: rest

/-- `mem[a] <- b`, keeping the list in its canonical form: writing the reset contents takes the entry out (log 5). -/
def memWrite (m : Memory) (a : Nat) (b : Byte) : Memory :=
  if b = resetByte a then memErase m a else memInsert (memErase m a) a b

/-- The list is canonical from address `lo` on: addresses strictly rising, inside the 4096 cells (R1, R41), and
no entry equal to the reset contents. -/
def Memory.wfFrom (lo : Nat) (m : Memory) : Bool :=
  match m with
  | [] => true
  | (a, b) :: rest => decide (lo ≤ a) && decide (a < 4096) && decide (b ≠ resetByte a) && Memory.wfFrom (a + 1) rest

/-- The canonical form of memory. -/
def Memory.wf (m : Memory) : Bool :=
  Memory.wfFrom 0 m

/-- The bytes of `bs` written one after the other at ascending addresses from `a` (R44). -/
def storeBytes (m : Memory) (a : Nat) (bs : List Byte) : Memory :=
  match bs with
  | [] => m
  | b :: rest => storeBytes (memWrite m a b) (a + 1) rest

/-! ### Registers (spec 10_state.md) -/

/-- `V[x]` (R10). -/
def readV (s : State) (x : Nibble) : Byte :=
  s.V[x.toNat]'x.toNat_lt

/-- `V[x] <- b` (R10). -/
def writeV (s : State) (x : Nibble) (b : Byte) : State :=
  { s with V := s.V.set x.toNat b x.toNat_lt }

/-- `pc <- w` (R12). -/
def setPc (s : State) (w : Word) : State :=
  { s with pc := w }

/-- `I <- w` (R14). -/
def setI (s : State) (w : Word) : State :=
  { s with I := w }

/-- `DT <- b` (R17). -/
def setDT (s : State) (b : Byte) : State :=
  { s with DT := b }

/-- `ST <- b` (R18). -/
def setST (s : State) (b : Byte) : State :=
  { s with ST := b }

/-- `mem <- m` (R19). -/
def setMem (s : State) (m : Memory) : State :=
  { s with mem := m }

/-- `fb <- f` (R20). -/
def setFb (s : State) (f : Framebuffer) : State :=
  { s with fb := f }

/-- The registers V0 to V`x` loaded from ascending addresses: `V[k] <- mem[a + k]` for k = 0 to x (R145). The
loads do not depend on one another. -/
def loadV (s : State) (x : Nibble) (a : Nat) : State :=
  { s with V := Vector.ofFn fun k : Fin 16 => if k.val ≤ x.toNat then memRead s.mem (a + k.val) else s.V[k.val] }

/-- The next byte of the random source, and the state with that draw counted (R5, R25; log 2). -/
def draw8 (s : State) : Byte × State :=
  (Config.drawByte s.draws, { s with draws := s.draws + 1 })

/-! ### The skip (spec 41_flow.md R107) -/

/-- A taken skip adds 2 to the post-fetch `pc`, mod 2^16; otherwise nothing changes (R107). -/
def skipIf (c : Bool) (s : State) : State :=
  if c then setPc s (s.pc + 2) else s

/-! ### The call stack (spec 10_state.md R15, R16) -/

/-- Push on a stack that is not full: `stack[sp] <- w; sp <- sp + 1` (R16). -/
def pushStack (s : State) (w : Word) (h : s.sp.val < 16) : State :=
  { s with stack := s.stack.set s.sp.val w h, sp := ⟨s.sp.val + 1, by omega⟩ }

/-- Pop of a stack that is not empty: the entry below the top and the state with `sp <- sp − 1` (R16). The entry
stays in the array. -/
def popStack (s : State) (h : 0 < s.sp.val) : Word × State :=
  (s.stack[s.sp.val - 1]'(by omega), { s with sp := ⟨s.sp.val - 1, by omega⟩ })

/-! ### Errors (spec 60_exceptions.md)

Raising a fatal error is the only trap entry of this hardware (R213). There is no return from it: no instruction and
no host operation but reset clears `err` (R218), so no return operation stands beside it. -/

/-- The 3-bit code of the error status register (R31, R211). -/
def ErrCode.code (e : ErrCode) : BitVec 3 :=
  match e with
  | .noError => 0
  | .stackOverflow => 1
  | .stackUnderflow => 2
  | .fetchOutOfRange => 3
  | .dataOutOfRange => 4

/-- `raise e(info)`: `err <- e; err_info <- info`, and nothing else (R6, R211, R213). -/
def raise (s : State) (e : ErrCode) (info : Word) : State :=
  { s with err := e, errInfo := info }

/-- The instance is halted (R31, R85). -/
def halted (s : State) : Bool :=
  decide (s.err ≠ .noError)

/-- The data range [I, I + n − 1] lies inside memory; an empty range always does (R43). -/
def dataRangeOk (s : State) (n : Nat) : Bool :=
  decide (n = 0 ∨ s.I.toNat + n - 1 ≤ 0xFFF)

/-- The range check of a data access of `n` bytes from `I`: an access that would touch an address above 0xFFF raises
DATA_OUT_OF_RANGE with `err_info = I` before any other effect (R43). -/
def withDataRange (s : State) (n : Nat) (effect : State) : State :=
  if dataRangeOk s n then effect else raise s .dataOutOfRange s.I

/-! ### The keypad (spec 45_keypad_timers.md) -/

/-- `key[k]` (R21). -/
def keyPressed (s : State) (k : Nibble) : Bool :=
  s.key[k.toNat]'k.toNat_lt

/-- The smallest pressed key, if any is pressed (R81, R173). -/
def lowestKey (s : State) : Option Nibble :=
  ((List.range 16).map (BitVec.ofNat 4)).find? (keyPressed s)

/-- A key index as the 8-bit value 0x00 to 0x0F that is written to a register (R81). -/
def keyValue (k : Nibble) : Byte :=
  k.setWidth 8

/-- `wait <- 1; wait_x <- x` (R173). -/
def blockOnKey (s : State) (x : Nibble) : State :=
  { s with wait := true, waitX := x }

/-- `wait <- 0` (R81). -/
def unblock (s : State) : State :=
  { s with wait := false }

/-- The key-wait poll of a Step that is blocked (R81). -/
def pollKeys (s : State) : State :=
  match lowestKey s with
  | some k => unblock (writeV s s.waitX (keyValue k))
  | none => s

/-! ### Fetch (spec 40_step_cycle.md R82) -/

/-- `MemRead(pc, 2)`: the big-endian word at `pc` (R42, R82). -/
def fetchWord (s : State) : Word :=
  wordOfBytes (memRead s.mem s.pc.toNat) (memRead s.mem (s.pc.toNat + 1))

/-- The fetch guard: both bytes lie inside memory (R43, R82). -/
def fetchOk (s : State) : Bool :=
  decide (s.pc.toNat ≤ 0x0FFE)

/-- `IR <- op; pc <- (pc + 2) mod 2^16` (R80, R82). -/
def afterFetch (s : State) : State :=
  { s with IR := fetchWord s, pc := s.pc + 2 }

/-- `diag <- diag ++ [op]` (R84). -/
def recordUnrecognized (s : State) (op : Word) : State :=
  { s with diag := s.diag ++ [op] }

end Sys2Proof.Machine
end

