-- ==== Sys2Proof/Machine/Operands.lean ====
section
/-! DEFINITION. The operand forms (spec 30_encoding.md R67): how each field becomes a value. -/

namespace Sys2Proof.Machine

/-- NNN, zero-extended to 16 bits when written to `pc` or `I` (R61). -/
def addrValue (nnn : Addr) : Word :=
  nnn.setWidth 16

/-- A register's value, zero-extended to 16 bits for address arithmetic (R108, R141, R142). -/
def wordOfV (s : State) (x : Nibble) : Word :=
  (readV s x).setWidth 16

/-- The source operand of SHR and SHL: V[X], or V[Y] when SHIFT_USES_VY is set (R3, R129, R131; log 14). -/
def shiftSource (s : State) (x y : Nibble) : Byte :=
  if s.cfg.shiftUsesVY then readV s y else readV s x

/-- The key that SKP and SKNP examine: the low 4 bits of V[X] (R176; log 18). -/
def keyIndex (s : State) (x : Nibble) : Nibble :=
  (readV s x).setWidth 4

/-- The contents of V0 to V`x` inclusive, in order: the field X as a count (R144). -/
def registersUpTo (s : State) (x : Nibble) : List Byte :=
  s.V.toList.take (x.toNat + 1)

/-- The address `I` holds, as a natural number that does not wrap (R43). -/
def indexAddr (s : State) : Nat :=
  s.I.toNat

end Sys2Proof.Machine
end

