-- ==== Sys2Proof/Machine/Flags.lean ====
section
/-! DEFINITION. The flag outputs of the ALU (spec 42_alu.md R128) and the order of the flag write (10_state.md R11). -/

namespace Sys2Proof.Machine

/-- A flag as the value VF takes: 1 or 0 (R11). -/
def flagValue (c : Bool) : Byte :=
  if c then 1 else 0

/-- The carry of ADD VX,VY: 1 iff the true sum exceeds 255 (R126, R128). -/
def carryOut (a b : Byte) : Bool :=
  decide (a.toNat + b.toNat > 255)

/-- The flag of SUB, and of SUBN with the operands exchanged: 1 iff `a > b`, strictly (R127, R128, R130; log 31). -/
def strictlyGreater (a b : Byte) : Bool :=
  decide (a.toNat > b.toNat)

/-- The bit SHR shifts out: old bit 0 (R129). -/
def lowBitOut (a : Byte) : Bool :=
  a.getLsbD 0

/-- The bit SHL shifts out: old bit 7 (R131). -/
def highBitOut (a : Byte) : Bool :=
  a.getLsbD 7

/-- The writes of a flag-writing ALU operation, in the order of R11: the result to V[X], then the flag to V[15], last.
When X = 0xF the flag is what V[15] holds afterwards (log 13). -/
def writeResultThenFlag (s : State) (x : Nibble) (result : Byte) (flag : Bool) : State :=
  writeV (writeV s x result) VF (flagValue flag)

end Sys2Proof.Machine
end

