-- ==== Sys2Proof/Machine/Alu.lean ====
section
/-! DEFINITION. Register load, arithmetic, bitwise, shift and random instructions (spec 42_alu.md). -/

namespace Sys2Proof.Machine

/-- LD VX,NN (R120). -/
def execLdImm (x : Nibble) (nn : Byte) (s : State) : Host.Outcome State Fault Refusal :=
  .next (writeV s x nn)

/-- ADD VX,NN (R121): mod 256, no flag. -/
def execAddImm (x : Nibble) (nn : Byte) (s : State) : Host.Outcome State Fault Refusal :=
  .next (writeV s x (readV s x + nn))

/-- LD VX,VY (R122). -/
def execLdReg (x y : Nibble) (s : State) : Host.Outcome State Fault Refusal :=
  .next (writeV s x (readV s y))

/-- OR VX,VY (R123). -/
def execOrReg (x y : Nibble) (s : State) : Host.Outcome State Fault Refusal :=
  .next (writeV s x (readV s x ||| readV s y))

/-- AND VX,VY (R124). -/
def execAndReg (x y : Nibble) (s : State) : Host.Outcome State Fault Refusal :=
  .next (writeV s x (readV s x &&& readV s y))

/-- XOR VX,VY (R125). -/
def execXorReg (x y : Nibble) (s : State) : Host.Outcome State Fault Refusal :=
  .next (writeV s x (readV s x ^^^ readV s y))

/-- ADD VX,VY (R126): VF = carry. -/
def execAddReg (x y : Nibble) (s : State) : Host.Outcome State Fault Refusal :=
  let a := readV s x
  let b := readV s y
  .next (writeResultThenFlag s x (a + b) (carryOut a b))

/-- SUB VX,VY (R127): VF = 1 iff VX > VY. -/
def execSubReg (x y : Nibble) (s : State) : Host.Outcome State Fault Refusal :=
  let a := readV s x
  let b := readV s y
  .next (writeResultThenFlag s x (a - b) (strictlyGreater a b))

/-- SHR VX (R129): VF = the bit shifted out. -/
def execShr (x y : Nibble) (s : State) : Host.Outcome State Fault Refusal :=
  let a := shiftSource s x y
  .next (writeResultThenFlag s x (a >>> 1) (lowBitOut a))

/-- SUBN VX,VY (R130): VF = 1 iff VY > VX. -/
def execSubnReg (x y : Nibble) (s : State) : Host.Outcome State Fault Refusal :=
  let a := readV s x
  let b := readV s y
  .next (writeResultThenFlag s x (b - a) (strictlyGreater b a))

/-- SHL VX (R131): VF = the bit shifted out. -/
def execShl (x y : Nibble) (s : State) : Host.Outcome State Fault Refusal :=
  let a := shiftSource s x y
  .next (writeResultThenFlag s x (a <<< 1) (highBitOut a))

/-- RND VX,NN (R132): a fresh draw masked with NN (log 2). -/
def execRnd (x : Nibble) (nn : Byte) (s : State) : Host.Outcome State Fault Refusal :=
  let (r, t) := draw8 s
  .next (writeV t x (r &&& nn))

end Sys2Proof.Machine
end

