-- ==== Sys2Proof/Machine/Display.lean ====
section
/-! DEFINITION. Display instructions and collision detection (spec 44_display.md). -/

namespace Sys2Proof.Machine

/-- `fb[y][x]` (R20). -/
def pixel (f : Framebuffer) (y : Fin 32) (x : Fin 64) : Bool :=
  f[y.val][x.val]

/-- The framebuffer with every pixel off (R160). -/
def blankFb : Framebuffer :=
  Vector.replicate 32 (Vector.replicate 64 false)

/-- CLS (R160). -/
def execCls (s : State) : Host.Outcome State Fault Refusal :=
  .next (setFb s blankFb)

/-- What one DRW has drawn so far: the framebuffer, and whether a pixel went from on to off. -/
abbrev Drawing := Framebuffer × Bool

/-- A set sprite bit at row `y`, column `x`: past the edges it is clipped; inside, an on pixel is a collision, and the
pixel is inverted (R161). -/
def drawPixel (y x : Nat) (d : Drawing) : Drawing :=
  if h : y < 32 ∧ x < 64 then
    let old := d.1[y][x]
    (d.1.set y (d.1[y].set x (!old)), d.2 || old)
  else d

/-- The sprite byte `b` at row `y` from column `x0`: bit 7 is the leftmost pixel (R161; log 15). -/
def drawRow (b : Byte) (y x0 : Nat) (d : Drawing) : Drawing :=
  (List.range 8).foldl (fun d c => if b.getLsbD (7 - c) then drawPixel y (x0 + c) d else d) d

/-- The `n` rows of a sprite from row `y0`, column `x0`; `row r` is its byte r (R161). -/
def drawSprite (row : Nat → Byte) (x0 y0 n : Nat) (f : Framebuffer) : Drawing :=
  (List.range n).foldl (fun d r => drawRow (row r) (y0 + r) x0 d) (f, false)

/-- The sprite that `I` addresses: byte r is mem[I + r] (R161). -/
def spriteRow (s : State) (r : Nat) : Byte :=
  memRead s.mem (indexAddr s + r)

/-- The start column of a DRW: VX mod 64 (R161). -/
def drawColumn (s : State) (x : Nibble) : Nat :=
  (readV s x).toNat % 64

/-- The start row of a DRW: VY mod 32 (R161). -/
def drawLine (s : State) (y : Nibble) : Nat :=
  (readV s y).toNat % 32

/-- DRW VX,VY,N (R161): the coordinates are read before VF is written; the range check covers all N bytes and comes
first (log 10, log 16); VF = 1 iff a pixel went from on to off. -/
def execDrw (x y n : Nibble) (s : State) : Host.Outcome State Fault Refusal :=
  let d := drawSprite (spriteRow s) (drawColumn s x) (drawLine s y) n.toNat s.fb
  .next (withDataRange s n.toNat (writeV (setFb s d.1) VF (flagValue d.2)))

end Sys2Proof.Machine
end

