-- ==== Sys2Proof/Machine/Flow.lean ====
section
/-! DEFINITION. Control transfer (spec 41_flow.md). `pc` holds the post-fetch value in every meaning (R80, R83). -/

namespace Sys2Proof.Machine

/-- RET (R100): pop into `pc`; STACK_UNDERFLOW on an empty stack. -/
def execRet (s : State) : Host.Outcome State Fault Refusal :=
  if h : 0 < s.sp.val then
    let (w, t) := popStack s h
    .next (setPc t w)
  else .next (raise s .stackUnderflow s.IR)

/-- JP NNN (R101). -/
def execJp (nnn : Addr) (s : State) : Host.Outcome State Fault Refusal :=
  .next (setPc s (addrValue nnn))

/-- CALL NNN (R102): push the post-fetch `pc` and jump; STACK_OVERFLOW on a full stack. -/
def execCall (nnn : Addr) (s : State) : Host.Outcome State Fault Refusal :=
  if h : s.sp.val < 16 then .next (setPc (pushStack s s.pc h) (addrValue nnn))
  else .next (raise s .stackOverflow s.IR)

/-- SE VX,NN (R103). -/
def execSeImm (x : Nibble) (nn : Byte) (s : State) : Host.Outcome State Fault Refusal :=
  .next (skipIf (decide (readV s x = nn)) s)

/-- SNE VX,NN (R104). -/
def execSneImm (x : Nibble) (nn : Byte) (s : State) : Host.Outcome State Fault Refusal :=
  .next (skipIf (decide (readV s x ≠ nn)) s)

/-- SE VX,VY (R105). -/
def execSeReg (x y : Nibble) (s : State) : Host.Outcome State Fault Refusal :=
  .next (skipIf (decide (readV s x = readV s y)) s)

/-- SNE VX,VY (R106). -/
def execSneReg (x y : Nibble) (s : State) : Host.Outcome State Fault Refusal :=
  .next (skipIf (decide (readV s x ≠ readV s y)) s)

/-- JP V0,NNN (R108): the register added is always V[0]; the sum is not reduced to 12 bits (log 11). -/
def execJpV0 (nnn : Addr) (s : State) : Host.Outcome State Fault Refusal :=
  .next (setPc s (wordOfV s 0 + addrValue nnn))

end Sys2Proof.Machine
end

