-- ==== Sys2Proof/Machine/Index.lean ====
section
/-! DEFINITION. Index register and memory instructions (spec 43_index_memory.md). -/

namespace Sys2Proof.Machine

/-- LD I,NNN (R140). -/
def execLdI (nnn : Addr) (s : State) : Host.Outcome State Fault Refusal :=
  .next (setI s (addrValue nnn))

/-- ADD I,VX (R141): mod 2^16, no flag (log 11, log 32). -/
def execAddI (x : Nibble) (s : State) : Host.Outcome State Fault Refusal :=
  .next (setI s (s.I + wordOfV s x))

/-- LD F,VX (R142): 0x0050 + 5·VX, VX not masked (log 17). -/
def execLdF (x : Nibble) (s : State) : Host.Outcome State Fault Refusal :=
  .next (setI s (0x0050 + 5 * wordOfV s x))

/-- The three decimal digits of a byte: hundreds, tens, ones (R143). -/
def bcdDigits (v : Byte) : List Byte :=
  [BitVec.ofNat 8 (v.toNat / 100), BitVec.ofNat 8 (v.toNat / 10 % 10), BitVec.ofNat 8 (v.toNat % 10)]

/-- LD B,VX (R143): three bytes at I, I+1, I+2. -/
def execLdB (x : Nibble) (s : State) : Host.Outcome State Fault Refusal :=
  .next (withDataRange s 3 (setMem s (storeBytes s.mem (indexAddr s) (bcdDigits (readV s x)))))

/-- LD [I],VX (R144): V0 to VX at I to I+X; I is unchanged (log 21). -/
def execStoreRegs (x : Nibble) (s : State) : Host.Outcome State Fault Refusal :=
  .next (withDataRange s (x.toNat + 1) (setMem s (storeBytes s.mem (indexAddr s) (registersUpTo s x))))

/-- LD VX,[I] (R145): V0 to VX from I to I+X; I is unchanged (log 21). -/
def execLoadRegs (x : Nibble) (s : State) : Host.Outcome State Fault Refusal :=
  .next (withDataRange s (x.toNat + 1) (loadV s x (indexAddr s)))

end Sys2Proof.Machine
end

