-- ==== Sys2Proof/Machine/Keypad.lean ====
section
/-! DEFINITION. Keypad and timer instructions (spec 45_keypad_timers.md). -/

namespace Sys2Proof.Machine

/-- SKP VX (R170, R176). -/
def execSkp (x : Nibble) (s : State) : Host.Outcome State Fault Refusal :=
  .next (skipIf (keyPressed s (keyIndex s x)) s)

/-- SKNP VX (R171, R176). -/
def execSknp (x : Nibble) (s : State) : Host.Outcome State Fault Refusal :=
  .next (skipIf (!keyPressed s (keyIndex s x)) s)

/-- LD VX,DT (R172). -/
def execLdVxDt (x : Nibble) (s : State) : Host.Outcome State Fault Refusal :=
  .next (writeV s x s.DT)

/-- LD VX,K (R173): the smallest pressed key at once, or the blocked state (log 19). -/
def execLdVxK (x : Nibble) (s : State) : Host.Outcome State Fault Refusal :=
  match lowestKey s with
  | some k => .next (writeV s x (keyValue k))
  | none => .next (blockOnKey s x)

/-- LD DT,VX (R174). -/
def execLdDtVx (x : Nibble) (s : State) : Host.Outcome State Fault Refusal :=
  .next (setDT s (readV s x))

/-- LD ST,VX (R175). -/
def execLdStVx (x : Nibble) (s : State) : Host.Outcome State Fault Refusal :=
  .next (setST s (readV s x))

end Sys2Proof.Machine
end

