-- ==== Sys2Proof/Machine/Step.lean ====
section
/-! DEFINITION. One Step call (spec 40_step_cycle.md R80), and how one instruction is placed where Step fetches it. -/

namespace Sys2Proof.Machine

/-- The cycle of R80, its checks in the order of R216: halted, blocked, fetch guard; then fetch, decode and dispatch.
Decode and dispatch see the post-fetch state. What Step returns is the `IR` of the next state (R86). -/
def step (s : State) : Host.Outcome State Fault Refusal :=
  if halted s then .next s
  else if s.wait then .next (pollKeys s)
  else if fetchOk s then
    match decodeWord (fetchWord s) with
    | .ok i => exec i (afterFetch s)
    | .error _ => .next (recordUnrecognized (afterFetch s) (fetchWord s))
  else .next (raise s .fetchOutOfRange s.pc)

/-- `s` with the two bytes of one instruction where the next Step fetches: at `pc`, or at 0x200, the load address,
when no word can be fetched at `pc`. A Step fetches only in the ready state, so `err` and `wait` are put at NONE and 0,
as they are after reset. It stands for LoadROM (`loadROM`), which is how a program comes to run (log 26). -/
def State.withFetchWord (s : State) (nbits w : Nat) : State :=
  let at' : Word := if fetchOk s then s.pc else 0x0200
  { s with
    pc := at'
    wait := false
    err := .noError
    mem := storeBytes s.mem at'.toNat [highByte (tableWord nbits w), lowByte (tableWord nbits w)] }

end Sys2Proof.Machine
end

