-- ==== Sys2Proof/Machine/HostOps.lean ====
section
/-! DEFINITION. The host operations (spec 46_host_operations.md), reset (70_reset_and_hazards.md R240) and the host protocol (R190, R199). -/

namespace Sys2Proof.Machine

/-- Construction of an instance with given parameters (R240, R28): the font of the instance at 0x050. -/
def construct (cfg : Config) : State :=
  { State.reset with cfg := cfg, mem := storeBytes [] 0x050 cfg.font.toList }

/-- A reset applied later: the same effect as a fresh construction; the parameters stay (R240). The random source is
reseeded, so its later draws are fresh ones: the count of draws goes on (log 23). -/
def hostReset (s : State) : State :=
  { construct s.cfg with draws := s.draws }

/-- The maximum ROM length, ROM_MAX (R2). -/
def romMax : Nat := 0xE00

/-- Why LoadROM failed (R192, R214). -/
inductive LoadError where
  /-- The ROM is longer than 0xE00 bytes. -/
  | romTooLong
deriving DecidableEq, Repr

/-- LoadROM(bytes): the bytes verbatim from 0x200 on, nothing else changed (R191); a ROM longer than 0xE00 bytes is a
LoadError, and the caller keeps the state it had (R192). -/
def loadROM (bytes : List Byte) (s : State) : Except LoadError State :=
  if bytes.length ≤ romMax then .ok (setMem s (storeBytes s.mem 0x200 bytes)) else .error .romTooLong

/-- One tick of a timer: down by one, holding at 0 (R194). -/
def tickDown (b : Byte) : Byte :=
  if b = 0 then 0 else b - 1

/-- TickTimers() (R194). -/
def tickTimers (s : State) : State :=
  setST (setDT s (tickDown s.DT)) (tickDown s.ST)

/-- SetKey(index, pressed) (R195). -/
def setKey (k : Nibble) (pressed : Bool) (s : State) : State :=
  { s with key := s.key.set k.toNat pressed k.toNat_lt }

/-- GetFramebuffer() (R196): the pixels in the linear order y·64 + x (R20). -/
def getFramebuffer (s : State) : List Bool :=
  s.fb.toList.flatMap Vector.toList

/-- GetDiagnostics() (R198). -/
def getDiagnostics (s : State) : List Word :=
  s.diag

/-- The structured error that the host may read after a Step (R86, R193, R211). -/
def structuredError (s : State) : BitVec 3 × Word :=
  (s.err.code, s.errInfo)

/-- The lifecycle phase: protocol state of the host, not a register of the core (R190). -/
inductive Phase where
  /-- CONSTRUCTED: after reset. -/
  | constructed
  /-- LOADED: after a successful LoadROM. -/
  | loaded
  /-- FAILED: after a LoadROM that returned LoadError. -/
  | failed
deriving DecidableEq, Repr

/-- One instance and the phase its host is in. -/
structure Session where
  phase : Phase
  core : State
deriving DecidableEq, Repr

/-- What the host can do to an instance (R199). -/
inductive HostOp where
  | reset
  | loadROM (bytes : List Byte)
  | step
  | tickTimers
  | setKey (k : Nibble) (pressed : Bool)
  | getFramebuffer
  | getDiagnostics
deriving DecidableEq, Repr

/-- What an operation gives back to the host. -/
inductive HostReply where
  | done
  | loaded
  | loadError (e : LoadError)
  | opcode (w : Word)
  | pixels (bits : List Bool)
  | opcodes (ws : List Word)
deriving DecidableEq, Repr

/-- The host's duties (R190, R199): LoadROM once, in phase CONSTRUCTED; Step only in phase LOADED; in phase FAILED
nothing but reset (log 22). -/
def HostOp.allowed (o : HostOp) (p : Phase) : Bool :=
  match o, p with
  | .reset, _ => true
  | _, .failed => false
  | .loadROM _, .constructed => true
  | .loadROM _, .loaded => false
  | .step, .loaded => true
  | .step, .constructed => false
  | .tickTimers, _ => true
  | .setKey _ _, _ => true
  | .getFramebuffer, _ => true
  | .getDiagnostics, _ => true

/-- What an allowed operation does: one atomic transition and its reply (R190 to R198). -/
def hostEffect (o : HostOp) (h : Session) : Option (Session × HostReply) :=
  match o with
  | .reset => some (⟨.constructed, hostReset h.core⟩, .done)
  | .loadROM bytes =>
    match Sys2Proof.Machine.loadROM bytes h.core with
    | .ok t => some (⟨.loaded, t⟩, .loaded)
    | .error e => some (⟨.failed, h.core⟩, .loadError e)
  | .step =>
    match Sys2Proof.Machine.step h.core with
    | .next t => some (⟨h.phase, t⟩, .opcode t.IR)
    | _ => none
  | .tickTimers => some (⟨h.phase, Sys2Proof.Machine.tickTimers h.core⟩, .done)
  | .setKey k p => some (⟨h.phase, Sys2Proof.Machine.setKey k p h.core⟩, .done)
  | .getFramebuffer => some (h, .pixels (Sys2Proof.Machine.getFramebuffer h.core))
  | .getDiagnostics => some (h, .opcodes (Sys2Proof.Machine.getDiagnostics h.core))

/-- One move of the host; a host that breaks its duties has none (R190, R199, U20). -/
def hostMove (o : HostOp) (h : Session) : Option (Session × HostReply) :=
  if o.allowed h.phase then hostEffect o h else none

/-- A sequence of moves, in the total order of R197: the session it leads to, if every move is allowed. -/
def hostRun (ops : List HostOp) (h : Session) : Option Session :=
  match ops with
  | [] => some h
  | o :: rest =>
    match hostMove o h with
    | some (h', _) => hostRun rest h'
    | none => none

/-- The session right after construction (R190, R240). -/
def Session.start (cfg : Config) : Session :=
  ⟨.constructed, construct cfg⟩

end Sys2Proof.Machine
end

