-- ==== Sys2Proof/Safety.lean ====
section
/-! DEFINITION. The terms that claims use: the components of the state and what a transition leaves unchanged, the invariant of the machine, and a safe run. -/

namespace Sys2Proof.Machine

/-- The pieces of the state that a frame names, each as fine as an instruction can change it. -/
inductive Component where
  | reg (x : Nibble)
  | pc
  | I
  | stackEntry (k : Fin 16)
  | sp
  | DT
  | ST
  | memByte (a : Nat)
  | pixel (y : Fin 32) (x : Fin 64)
  | key (k : Nibble)
  | wait
  | waitX
  | err
  | errInfo
  | IR
  | diag
  | cfg
  | draws
deriving DecidableEq, Repr

/-- The component reads the same in both states. -/
def Agree (c : Component) (s t : State) : Prop :=
  match c with
  | .reg x => readV t x = readV s x
  | .pc => t.pc = s.pc
  | .I => t.I = s.I
  | .stackEntry k => t.stack[k.val] = s.stack[k.val]
  | .sp => t.sp = s.sp
  | .DT => t.DT = s.DT
  | .ST => t.ST = s.ST
  | .memByte a => memRead t.mem a = memRead s.mem a
  | .pixel y x => Machine.pixel t.fb y x = Machine.pixel s.fb y x
  | .key k => keyPressed t k = keyPressed s k
  | .wait => t.wait = s.wait
  | .waitX => t.waitX = s.waitX
  | .err => t.err = s.err
  | .errInfo => t.errInfo = s.errInfo
  | .IR => t.IR = s.IR
  | .diag => t.diag = s.diag
  | .cfg => t.cfg = s.cfg
  | .draws => t.draws = s.draws

/-- From `s` to `t` nothing changes but components that `may` allows. -/
def ChangesOnly (may : Component → Prop) (s t : State) : Prop :=
  ∀ c, ¬ may c → Agree c s t

/-- How many data bytes an instruction touches from `I` upward (20_memory.md R43). -/
def dataBytes (i : Instr) : Nat :=
  match i with
  | .drw _ _ n => n.toNat
  | .ldB _ => 3
  | .storeRegs x => x.toNat + 1
  | .loadRegs x => x.toNat + 1
  | _ => 0

/-- Whether a sprite of `n` rows at (x0, y0) has a set bit on the pixel (x, y) (R161). -/
def spriteCovers (row : Nat → Byte) (x0 y0 n y x : Nat) : Prop :=
  (y0 ≤ y ∧ y < y0 + n) ∧ (x0 ≤ x ∧ x < x0 + 8) ∧ (row (y - y0)).getLsbD (7 - (x - x0)) = true

/-- The next Step fetches: not halted, not blocked, and both bytes at `pc` inside memory (R80, R82). -/
def Ready (s : State) : Prop :=
  s.err = .noError ∧ s.wait = false ∧ s.pc.toNat ≤ 0x0FFE

/-- When a conditional skip is taken; none for an instruction that is no conditional skip (41_flow.md R103 to R106,
45_keypad_timers.md R170, R171). -/
def skipCondition (i : Instr) (s : State) : Option Bool :=
  match i with
  | .seImm x nn => some (readV s x == nn)
  | .sneImm x nn => some (readV s x != nn)
  | .seReg x y => some (readV s x == readV s y)
  | .sneReg x y => some (readV s x != readV s y)
  | .skp x => some (keyPressed s ((readV s x).extractLsb' 0 4))
  | .sknp x => some (!keyPressed s ((readV s x).extractLsb' 0 4))
  | _ => none

/-- The states in which an instruction raises a fatal error (60_exceptions.md R210): CALL on a full stack, RET on an
empty one, and a data range that passes 0xFFF (20_memory.md R43). -/
def raises (i : Instr) (s : State) : Prop :=
  match i with
  | .call _ => s.sp.val = 16
  | .ret => s.sp.val = 0
  | i => 1 ≤ dataBytes i ∧ 0xFFF < s.I.toNat + dataBytes i - 1

/-- What an instruction that raises no error may write in `s`, the state after the fetch, as the prose of 10_state.md
says it: R10 and R11 (V and VF), R12 (pc), R14 (I), R15 and R16 (the entry that `sp` indexes, sp), R17 and R18 (timers),
R19 with 20_memory.md R44 (the bytes from `I` on), R20 with 44_display.md R161 (the pixels the sprite covers), R21 (key),
R30 (wait, when no key is down), R31 (err), R23 (IR), R24 (diag), R25 (the random source). -/
def mayWriteNormally (i : Instr) (s : State) (c : Component) : Prop :=
  match c with
  | .reg r =>
    match i with
    | .ldImm x _ | .addImm x _ | .ldReg x _ | .orReg x _ | .andReg x _ | .xorReg x _ | .rnd x _ | .ldVxDt x => r = x
    | .ldVxK x => r = x ∧ ∃ k, keyPressed s k = true
    | .addReg x _ | .subReg x _ | .shr x _ | .subnReg x _ | .shl x _ => r = x ∨ r = VF
    | .drw _ _ _ => r = VF
    | .loadRegs x => r.toNat ≤ x.toNat
    | _ => False
  | .pc =>
    match i with
    | .ret | .jp _ | .call _ | .seImm _ _ | .sneImm _ _ | .seReg _ _ | .sneReg _ _ | .jpV0 _ | .skp _ | .sknp _ => True
    | _ => False
  | .I =>
    match i with
    | .ldI _ | .addI _ | .ldF _ => True
    | _ => False
  | .stackEntry k =>
    match i with
    | .call _ => k.val = s.sp.val
    | _ => False
  | .sp =>
    match i with
    | .call _ | .ret => True
    | _ => False
  | .DT =>
    match i with
    | .ldDtVx _ => True
    | _ => False
  | .ST =>
    match i with
    | .ldStVx _ => True
    | _ => False
  | .memByte a =>
    match i with
    | .ldB _ | .storeRegs _ => ∃ k < dataBytes i, a = indexAddr s + k
    | _ => False
  | .pixel py px =>
    match i with
    | .cls => True
    | .drw x y n => spriteCovers (spriteRow s) (drawColumn s x) (drawLine s y) n.toNat py.val px.val
    | _ => False
  | .wait | .waitX =>
    match i with
    | .ldVxK _ => ∀ k, keyPressed s k = false
    | _ => False
  | .draws =>
    match i with
    | .rnd _ _ => True
    | _ => False
  | .key _ | .err | .errInfo | .IR | .diag | .cfg => False

/-- What an instruction may write in `s`: where it raises an error, `err` and `err_info` and nothing else
(60_exceptions.md R213); elsewhere what `mayWriteNormally` says. -/
def mayWrite (i : Instr) (s : State) (c : Component) : Prop :=
  (raises i s ∧ (c = .err ∨ c = .errInfo)) ∨ (¬ raises i s ∧ mayWriteNormally i s c)

/-- A safe run of `k` Steps from `s` to `t`: it ends without an error, since "every claim about a program should take
err = NONE as part of its postcondition" (60_exceptions.md R218). -/
def SafeRun (k : Nat) (s t : State) : Prop :=
  match k with
  | 0 => s = t ∧ t.err = .noError
  | k + 1 => ∃ u, step s = .next u ∧ SafeRun k u t

/-- What holds of every state a run reaches, and is kept by every step from any state in which it holds. -/
structure Inv (s : State) : Prop where
  /-- Memory is in its canonical form, inside the 4096 cells (R1, R41). -/
  mem_wf : Memory.wf s.mem = true
  /-- `pc` is at most 0x10FE, so no `pc` arithmetic reduces mod 2^16 (R13). -/
  pc_le : s.pc.toNat ≤ 0x10FE
  /-- A valid stack entry is a return address that CALL pushed, at most 0x1000 (R13, R100). -/
  return_le : ∀ k : Fin 16, k.val < s.sp.val → (s.stack[k.val]).toNat ≤ 0x1000
  /-- Every recorded opcode is unrecognized (R24, R65). -/
  diag_unrecognized : ∀ w ∈ s.diag, ∃ r, decodeWord w = .error r
  /-- A blocked instance is not halted, and `IR` holds the FX0A opcode that blocked (R81). -/
  blocked : s.wait = true → s.err = .noError ∧ s.IR = encode (.ldVxK s.waitX)
  /-- `err_info` is written with `err` only (R31). -/
  no_error : s.err = .noError → s.errInfo = 0
  /-- STACK_OVERFLOW: a CALL on a full stack, its opcode in `err_info` and `IR` (R211, R213). -/
  stack_overflow : s.err = .stackOverflow → s.sp.val = 16 ∧ s.errInfo = s.IR ∧ ∃ nnn, s.IR = encode (.call nnn)
  /-- STACK_UNDERFLOW: a RET on an empty stack, its opcode in `err_info` and `IR` (R211, R213). -/
  stack_underflow : s.err = .stackUnderflow → s.sp.val = 0 ∧ s.errInfo = s.IR ∧ s.IR = encode .ret
  /-- FETCH_OUT_OF_RANGE: `pc` above 0x0FFE, in `err_info` (R82, R211). -/
  fetch_out_of_range : s.err = .fetchOutOfRange → s.errInfo = s.pc ∧ 0x0FFE < s.pc.toNat
  /-- DATA_OUT_OF_RANGE: `I` in `err_info`, and the opcode in `IR` is one whose range passes 0xFFF (R43, R211). -/
  data_out_of_range : s.err = .dataOutOfRange → s.errInfo = s.I ∧
    ∃ i, decodeWord s.IR = .ok i ∧ 1 ≤ dataBytes i ∧ 0xFFF < s.I.toNat + dataBytes i - 1

/-- The invariant of an instance and its host: before a successful LoadROM no Step has happened (R190). -/
structure SessionInv (h : Session) : Prop where
  core : Inv h.core
  before_load : h.phase ≠ .loaded → h.core.pc = 0x0200 ∧ h.core.IR = 0 ∧ h.core.err = .noError ∧
    h.core.wait = false ∧ h.core.diag = [] ∧ h.core.sp = 0

end Sys2Proof.Machine
end

