-- ==== Sys2Proof/Certificates/Slice0/Obligations.lean ====
section
/-! DEFINITION. The statements for the provers. Each docstring names the rule of spec/ it formalises; where a clause rests on the spec's own decision D<n> or on a choice of this model (log n), it says so. -/

open Sys2Proof Sys2Proof.Machine

/-! ### Encoding -/

/-- The words of 30_encoding.md R64, written out: the three of the source (0x600A, 0xA050, 0xD005) and one or more of each
of the 16 groups (bits 15-12, R61). The other opcode numbers are the spec's decision D2 (log 8); 0x512F as SE VX,VY and
0x912A as SNE VX,VY rest on its decision D5, the rejection of 0x01E0 on D4 and that of 0x8128 on D6 (log 9). -/
def Obligations.DecodingOfWrittenWords : Prop :=
  decodeTableWord 16 0x600A = some (.ldImm 0 0x0A) ∧
  decodeTableWord 16 0xA050 = some (.ldI 0x050) ∧
  decodeTableWord 16 0xD005 = some (.drw 0 0 5) ∧
  decodeTableWord 16 0x00E0 = some .cls ∧
  decodeTableWord 16 0x00EE = some .ret ∧
  decodeTableWord 16 0x1ABC = some (.jp 0xABC) ∧
  decodeTableWord 16 0x2300 = some (.call 0x300) ∧
  decodeTableWord 16 0x3A5C = some (.seImm 0xA 0x5C) ∧
  decodeTableWord 16 0x4A5C = some (.sneImm 0xA 0x5C) ∧
  decodeTableWord 16 0x512F = some (.seReg 1 2) ∧
  decodeTableWord 16 0x7B01 = some (.addImm 0xB 0x01) ∧
  decodeTableWord 16 0x8127 = some (.subnReg 1 2) ∧
  decodeTableWord 16 0x812E = some (.shl 1 2) ∧
  decodeTableWord 16 0x912A = some (.sneReg 1 2) ∧
  decodeTableWord 16 0xB2FF = some (.jpV0 0x2FF) ∧
  decodeTableWord 16 0xC30F = some (.rnd 3 0x0F) ∧
  decodeTableWord 16 0xE3A1 = some (.sknp 3) ∧
  decodeTableWord 16 0xFA29 = some (.ldF 0xA) ∧
  decodeTableWord 16 0xF265 = some (.loadRegs 2) ∧
  decodeTableWord 16 0x8128 = none ∧
  decodeTableWord 16 0x01E0 = none

/-- Decode undoes encode, for every instruction with every operand (R61, R63, R64). -/
def Obligations.DecodeAfterEncode : Prop :=
  ∀ i : Instr, decodeWord (encode i) = .ok i ∧ decodeBytes [highByte (encode i), lowByte (encode i)] = .ok (i, [])

/-- Encode undoes decode, but for the bits that R66 says are not examined. That bits 3-0 of 5XYN and 9XYN are such bits is
the spec's decision D5, and that all bits of the other words are fixed or operands its decisions D2, D4 and D6 (log 8,
log 9). -/
def Obligations.EncodeAfterDecode : Prop :=
  ∀ (op : Word) (i : Instr), decodeWord op = .ok i → encode i = op &&& examinedBits i

/-- R63 and R64 agree: the decoder answers an instruction of a row exactly on the words the row selects, and no two rows
select one word. The opcode numbers are the spec's decision D2 (log 8); the masks (all 16 bits of group 0, no N in groups
5 and 9, the low nibble of group 8, the low byte of groups E and F) are its decisions D4 to D6 (log 9). -/
def Obligations.DecoderFollowsOpcodeMap : Prop :=
  ∀ op : Word,
    (∀ i, decodeWord op = .ok i → (opcodeRow i).selects op = true) ∧
    (∀ r ∈ opcodeTable, r.selects op = true → ∃ i, decodeWord op = .ok i ∧ opcodeRow i = r) ∧
    (∀ r ∈ opcodeTable, ∀ r' ∈ opcodeTable, r.selects op = true → r'.selects op = true → r = r')

/-- The UNRECOGNIZED set of R65, group by group; nothing else is rejected. It rests on the spec's decisions D2 (log 8) and
D3 to D6 (log 9). -/
def Obligations.UnrecognizedWordsByGroup : Prop :=
  ∀ op : Word,
    (decodeWord op = .error .unrecognizedGroup0 ↔ op.toNat / 4096 = 0 ∧ op ≠ 0x00E0 ∧ op ≠ 0x00EE) ∧
    (decodeWord op = .error .unrecognizedGroup8 ↔
      op.toNat / 4096 = 8 ∧ op.toNat % 16 ∈ [0x8, 0x9, 0xA, 0xB, 0xC, 0xD, 0xF]) ∧
    (decodeWord op = .error .unrecognizedGroupE ↔ op.toNat / 4096 = 0xE ∧ op.toNat % 256 ∉ [0x9E, 0xA1]) ∧
    (decodeWord op = .error .unrecognizedGroupF ↔ op.toNat / 4096 = 0xF ∧
      op.toNat % 256 ∉ [0x07, 0x0A, 0x15, 0x18, 0x1E, 0x29, 0x33, 0x55, 0x65]) ∧
    decodeWord op ≠ .error .truncated

/-- The assembler forms of R68: each instruction's form, with two-operand shifts, assembles to it; a line assembles
exactly when it is well formed; a shift written with one operand gets Y = 0 (this model's choice, log 30). -/
def Obligations.AssemblerFormsRoundTrip : Prop :=
  (∀ i : Instr, assemble (i.toAsm true) = some i) ∧
  (∀ l : AsmLine, (assemble l).isSome = l.wellFormed) ∧
  (∀ x y : Nibble, assemble ((Instr.shr x y).toAsm false) = some (.shr x 0) ∧
    assemble ((Instr.shl x y).toAsm false) = some (.shl x 0))

/-! ### The Step cycle -/

/-- R80, R82, R83: in the ready state, when the word at `pc` decodes to an instruction, Step is that instruction run
on the state after the fetch, which differs from the state before it in `pc` and `IR` only. -/
def Obligations.StepRunsTheDecodedInstruction : Prop :=
  ∀ (s : State) (i : Instr), Ready s →
    decodeWord (wordOfBytes (memRead s.mem s.pc.toNat) (memRead s.mem (s.pc.toNat + 1))) = .ok i →
    step s = exec i (afterFetch s) ∧ (afterFetch s).pc.toNat = s.pc.toNat + 2 ∧
      (afterFetch s).IR = wordOfBytes (memRead s.mem s.pc.toNat) (memRead s.mem (s.pc.toNat + 1)) ∧
      ChangesOnly (fun c => c = .pc ∨ c = .IR) s (afterFetch s)

/-- R42, R82, R86: a Step that fetches returns the big-endian combination of the two bytes at `pc`, whatever the
opcode. That the returned value is `IR` is the spec's decision D34 (log 25). -/
def Obligations.StepCallReturnsBigEndianOpcode : Prop :=
  ∀ s : State, Ready s → ∃ (t : State) (w : Word),
    hostMove .step ⟨.loaded, s⟩ = some (⟨.loaded, t⟩, .opcode w) ∧ step s = .next t ∧
      w.toNat = 256 * (memRead s.mem s.pc.toNat).toNat + (memRead s.mem (s.pc.toNat + 1)).toNat

/-- R84: an unrecognized opcode is appended to `diag` and skipped, and nothing else changes. -/
def Obligations.UnrecognizedOpcodeIsRecordedAndSkipped : Prop :=
  ∀ (s : State) (r : Reject), Ready s → decodeWord (fetchWord s) = .error r →
    ∃ t, step s = .next t ∧ t.diag = s.diag ++ [fetchWord s] ∧ t.pc.toNat = s.pc.toNat + 2 ∧
      t.IR = fetchWord s ∧ t.err = .noError ∧ ChangesOnly (fun c => c = .diag ∨ c = .pc ∨ c = .IR) s t

/-- R82, R211, R86: a Step with `pc` above 0x0FFE raises FETCH_OUT_OF_RANGE, code 3, changes nothing else, and returns
the `IR` of the last fetch. The guard, the code and the value returned are the spec's decisions D7, D14 and D34 (log 10,
log 12, log 25). -/
def Obligations.FetchBeyondMemoryHalts : Prop :=
  ∀ s : State, s.err = .noError → s.wait = false → 0x0FFE < s.pc.toNat →
    ∃ t, step s = .next t ∧ t.err = .fetchOutOfRange ∧ structuredError t = (3, s.pc) ∧
      ChangesOnly (fun c => c = .err ∨ c = .errInfo) s t ∧
      hostMove .step ⟨.loaded, s⟩ = some (⟨.loaded, t⟩, .opcode s.IR)

/-- R85, R86: a Step of a halted instance changes nothing and returns the `IR` of the last fetch. A no-op Step is the
spec's decision D13 (log 12), the value returned its decision D34 (log 25). -/
def Obligations.StepOfHaltedInstanceChangesNothing : Prop :=
  ∀ s : State, s.err ≠ .noError →
    step s = .next s ∧ hostMove .step ⟨.loaded, s⟩ = some (⟨.loaded, s⟩, .opcode s.IR)

/-- R81, R86: a blocked Step writes the smallest pressed key to the waiting register and clears `wait`, or changes
nothing; either way it returns the `IR` of the last fetch. Smallest index and level sampling are the spec's decision D23
(log 19), the value returned its decision D34 (log 25). -/
def Obligations.KeyWaitPollTakesSmallestKey : Prop :=
  ∀ s : State, s.err = .noError → s.wait = true →
    (∀ k : Nibble, keyPressed s k = true → (∀ j : Nibble, j.toNat < k.toNat → keyPressed s j = false) →
      ∃ t, step s = .next t ∧ (readV t s.waitX).toNat = k.toNat ∧ t.wait = false ∧
        ChangesOnly (fun c => c = .reg s.waitX ∨ c = .wait) s t ∧
        hostMove .step ⟨.loaded, s⟩ = some (⟨.loaded, t⟩, .opcode s.IR)) ∧
    ((∀ k : Nibble, keyPressed s k = false) →
      step s = .next s ∧ hostMove .step ⟨.loaded, s⟩ = some (⟨.loaded, s⟩, .opcode s.IR))

/-- Every Step of every state, and every instruction on every state, ends in a next state. That a fatal error (R210, R213) is
a next state and no path faults is this model's reading (log 7), and that a halted Step is a no-op is the spec's decision
D13 (log 12). -/
def Obligations.StepAlwaysHasANextState : Prop :=
  (∀ s : State, ∃ t, step s = .next t) ∧ (∀ (i : Instr) (s : State), ∃ t, exec i s = .next t)

/-! ### Control transfer (41_flow.md) -/

/-- R100: RET pops the top entry into `pc`. -/
def Obligations.ReturnPopsIntoPc : Prop :=
  ∀ (s : State) (k : Fin 16), s.sp.val = k.val + 1 →
    ∃ t, exec .ret s = .next t ∧ t.pc = s.stack[k.val] ∧ t.sp.val = k.val ∧
      ChangesOnly (fun c => c = .pc ∨ c = .sp) s t

/-- R100, R211: RET on an empty stack raises STACK_UNDERFLOW, code 2, with `IR` recorded, and changes nothing else (the
spec's decisions D12, D14; log 12). -/
def Obligations.ReturnOnEmptyStackHalts : Prop :=
  ∀ s : State, s.sp.val = 0 →
    ∃ t, exec .ret s = .next t ∧ t.err = .stackUnderflow ∧ structuredError t = (2, s.IR) ∧
      ChangesOnly (fun c => c = .err ∨ c = .errInfo) s t

/-- R101: JP NNN writes NNN to `pc`. -/
def Obligations.JumpWritesPc : Prop :=
  ∀ (nnn : Addr) (s : State),
    ∃ t, exec (.jp nnn) s = .next t ∧ t.pc.toNat = nnn.toNat ∧ ChangesOnly (fun c => c = .pc) s t

/-- R108: JP V0,NNN writes V[0] + NNN to `pc`, not reduced to 12 bits (the spec's decision D10; log 11). -/
def Obligations.JumpV0AddsV0 : Prop :=
  ∀ (nnn : Addr) (s : State),
    ∃ t, exec (.jpV0 nnn) s = .next t ∧ t.pc.toNat = (readV s 0).toNat + nnn.toNat ∧
      ChangesOnly (fun c => c = .pc) s t

/-- R102: CALL NNN pushes the post-fetch `pc` and jumps. -/
def Obligations.CallPushesPostFetchPc : Prop :=
  ∀ (nnn : Addr) (s : State) (k : Fin 16), s.sp.val = k.val →
    ∃ t, exec (.call nnn) s = .next t ∧ t.stack[k.val] = s.pc ∧ t.sp.val = k.val + 1 ∧
      t.pc.toNat = nnn.toNat ∧ ChangesOnly (fun c => c = .stackEntry k ∨ c = .sp ∨ c = .pc) s t

/-- R102, R211: CALL on a full stack raises STACK_OVERFLOW, code 1, with `IR` recorded, and changes nothing else (the
spec's decisions D12, D14; log 12). -/
def Obligations.CallOnFullStackHalts : Prop :=
  ∀ (nnn : Addr) (s : State), s.sp.val = 16 →
    ∃ t, exec (.call nnn) s = .next t ∧ t.err = .stackOverflow ∧ structuredError t = (1, s.IR) ∧
      ChangesOnly (fun c => c = .err ∨ c = .errInfo) s t

/-- R100 with R102: a RET that finds the stack as a CALL left it returns to the address after the CALL and to the depth
before it; only the stale stack entry differs. -/
def Obligations.ReturnUndoesCall : Prop :=
  ∀ (nnn : Addr) (s : State) (k : Fin 16), s.sp.val = k.val →
    ∃ t u, exec (.call nnn) s = .next t ∧ exec .ret t = .next u ∧ u.pc = s.pc ∧
      ChangesOnly (fun c => c = .stackEntry k) s u

/-- R103, R104: SE VX,NN and SNE VX,NN add 2 to the post-fetch `pc` iff VX = NN, iff VX ≠ NN. -/
def Obligations.SkipComparesImmediate : Prop :=
  ∀ (x : Nibble) (nn : Byte) (s : State),
    (∃ t, exec (.seImm x nn) s = .next t ∧ t.pc = (if readV s x = nn then s.pc + 2 else s.pc) ∧
      ChangesOnly (fun c => c = .pc) s t) ∧
    (∃ t, exec (.sneImm x nn) s = .next t ∧ t.pc = (if readV s x = nn then s.pc else s.pc + 2) ∧
      ChangesOnly (fun c => c = .pc) s t)

/-- R105, R106: SE VX,VY and SNE VX,VY add 2 to the post-fetch `pc` iff VX = VY, iff VX ≠ VY. -/
def Obligations.SkipComparesRegisters : Prop :=
  ∀ (x y : Nibble) (s : State),
    (∃ t, exec (.seReg x y) s = .next t ∧ t.pc = (if readV s x = readV s y then s.pc + 2 else s.pc) ∧
      ChangesOnly (fun c => c = .pc) s t) ∧
    (∃ t, exec (.sneReg x y) s = .next t ∧ t.pc = (if readV s x = readV s y then s.pc else s.pc + 2) ∧
      ChangesOnly (fun c => c = .pc) s t)

/-- R170, R171, R176: SKP and SKNP test the key that the low 4 bits of VX select, so exactly one of them skips. The low
nibble is the spec's decision D21 (log 18). -/
def Obligations.SkipTestsKey : Prop :=
  ∀ (x k : Nibble) (s : State), (readV s x).toNat % 16 = k.toNat →
    (∃ t, exec (.skp x) s = .next t ∧ t.pc = (if keyPressed s k then s.pc + 2 else s.pc) ∧
      ChangesOnly (fun c => c = .pc) s t) ∧
    (∃ t, exec (.sknp x) s = .next t ∧ t.pc = (if keyPressed s k then s.pc else s.pc + 2) ∧
      ChangesOnly (fun c => c = .pc) s t)

/-- R107 with R103 to R106, R170, R171: a Step of a conditional skip ends at the instruction's address + 4 when the skip is
taken and at + 2 when not, without reduction mod 2^16; the two skipped bytes are not fetched, decoded or recorded. That
SKP and SKNP take the low 4 bits of VX (R176) is the spec's decision D21 (log 18). -/
def Obligations.TakenSkipPassesTwoBytes : Prop :=
  ∀ (s : State) (i : Instr) (taken : Bool), Ready s → decodeWord (fetchWord s) = .ok i →
    skipCondition i s = some taken →
    ∃ t, step s = .next t ∧ t.pc.toNat = s.pc.toNat + (if taken then 4 else 2) ∧ t.IR = fetchWord s ∧
      ChangesOnly (fun c => c = .pc ∨ c = .IR) s t

/-! ### Loads and the ALU (42_alu.md) -/

/-- R120: 6XNN is LD VX,NN, which writes NN to VX and no flag. -/
def Obligations.LoadImmediateWritesNN : Prop :=
  (∀ op : Word, op.extractLsb' 12 4 = 0x6#4 →
    decodeWord op = .ok (.ldImm (op.extractLsb' 8 4) (op.extractLsb' 0 8))) ∧
  ∀ (x : Nibble) (nn : Byte) (s : State),
    ∃ t, exec (.ldImm x nn) s = .next t ∧ readV t x = nn ∧ ChangesOnly (fun c => c = .reg x) s t

/-- R121: ADD VX,NN adds mod 256 and writes no flag. -/
def Obligations.AddImmediateWrapsWithoutFlag : Prop :=
  ∀ (x : Nibble) (nn : Byte) (s : State),
    ∃ t, exec (.addImm x nn) s = .next t ∧ (readV t x).toNat = ((readV s x).toNat + nn.toNat) % 256 ∧
      ChangesOnly (fun c => c = .reg x) s t

/-- R122 to R125: LD VX,VY copies; OR, AND and XOR work bit by bit; none writes a flag. -/
def Obligations.RegisterCopyAndBitwise : Prop :=
  ∀ (x y : Nibble) (s : State),
    (∃ t, exec (.ldReg x y) s = .next t ∧ readV t x = readV s y ∧ ChangesOnly (fun c => c = .reg x) s t) ∧
    (∃ t, exec (.orReg x y) s = .next t ∧
      (∀ b < 8, (readV t x).getLsbD b = ((readV s x).getLsbD b || (readV s y).getLsbD b)) ∧
      ChangesOnly (fun c => c = .reg x) s t) ∧
    (∃ t, exec (.andReg x y) s = .next t ∧
      (∀ b < 8, (readV t x).getLsbD b = ((readV s x).getLsbD b && (readV s y).getLsbD b)) ∧
      ChangesOnly (fun c => c = .reg x) s t) ∧
    (∃ t, exec (.xorReg x y) s = .next t ∧
      (∀ b < 8, (readV t x).getLsbD b = ((readV s x).getLsbD b ^^ (readV s y).getLsbD b)) ∧
      ChangesOnly (fun c => c = .reg x) s t)

/-- R126: ADD VX,VY writes the sum mod 256 to VX and the carry to VF, also when X or Y is F; with X = F the flag is
what VF holds. -/
def Obligations.AddRegistersSetsCarry : Prop :=
  ∀ (x y : Nibble) (s : State),
    ∃ t, exec (.addReg x y) s = .next t ∧
      (readV t VF).toNat = (if 255 < (readV s x).toNat + (readV s y).toNat then 1 else 0) ∧
      (x ≠ VF → (readV t x).toNat = ((readV s x).toNat + (readV s y).toNat) % 256) ∧
      ChangesOnly (fun c => c = .reg x ∨ c = .reg VF) s t

/-- R127, R130, R128: SUB and SUBN write the difference mod 256 to VX and to VF 1 iff the minuend is strictly greater.
That the flag wins with X = F is the spec's decision D15 (log 13). -/
def Obligations.SubtractionsSetStrictFlag : Prop :=
  ∀ (x y : Nibble) (s : State),
    (∃ t, exec (.subReg x y) s = .next t ∧
      (readV t VF).toNat = (if (readV s y).toNat < (readV s x).toNat then 1 else 0) ∧
      (x ≠ VF → (readV t x).toNat = ((readV s x).toNat + 256 - (readV s y).toNat) % 256) ∧
      ChangesOnly (fun c => c = .reg x ∨ c = .reg VF) s t) ∧
    (∃ t, exec (.subnReg x y) s = .next t ∧
      (readV t VF).toNat = (if (readV s x).toNat < (readV s y).toNat then 1 else 0) ∧
      (x ≠ VF → (readV t x).toNat = ((readV s y).toNat + 256 - (readV s x).toNat) % 256) ∧
      ChangesOnly (fun c => c = .reg x ∨ c = .reg VF) s t)

/-- R129, R131: SHR and SHL shift VX, or VY when SHIFT_USES_VY is set, by one position; VF is the bit shifted out. The
setting true is the spec's decision D16, the flag winning with X = F its decision D15 (log 13, log 14). -/
def Obligations.ShiftsByOneSetBitOut : Prop :=
  ∀ (x y : Nibble) (s : State) (a : Byte), a = (if s.cfg.shiftUsesVY then readV s y else readV s x) →
    (∃ t, exec (.shr x y) s = .next t ∧ (readV t VF).toNat = a.toNat % 2 ∧
      (x ≠ VF → (readV t x).toNat = a.toNat / 2) ∧ ChangesOnly (fun c => c = .reg x ∨ c = .reg VF) s t) ∧
    (∃ t, exec (.shl x y) s = .next t ∧ (readV t VF).toNat = a.toNat / 128 ∧
      (x ≠ VF → (readV t x).toNat = 2 * a.toNat % 256) ∧ ChangesOnly (fun c => c = .reg x ∨ c = .reg VF) s t)

/-- R132: RND VX,NN writes a fresh draw masked with NN and no flag; no bit outside NN is set, and NN = 0 gives 0. The
draw as an unconstrained value is the spec's decision D22, the counter of draws this model's (log 2). -/
def Obligations.RandomIsMaskedDraw : Prop :=
  ∀ (x : Nibble) (nn : Byte) (s : State),
    ∃ t, exec (.rnd x nn) s = .next t ∧ readV t x = Config.drawByte s.draws &&& nn ∧ t.draws = s.draws + 1 ∧
      readV t x &&& ~~~nn = 0 ∧ (nn = 0 → readV t x = 0) ∧
      ChangesOnly (fun c => c = .reg x ∨ c = .draws) s t

/-! ### Index register and memory (43_index_memory.md) -/

/-- R140: ANNN is LD I,NNN, which writes NNN to I. -/
def Obligations.LoadIndexWritesNNN : Prop :=
  (∀ op : Word, op.extractLsb' 12 4 = 0xA#4 → decodeWord op = .ok (.ldI (op.extractLsb' 0 12))) ∧
  ∀ (nnn : Addr) (s : State),
    ∃ t, exec (.ldI nnn) s = .next t ∧ t.I.toNat = nnn.toNat ∧ ChangesOnly (fun c => c = .I) s t

/-- R141: ADD I,VX adds mod 2^16 and leaves VF, whatever the sum. The unmasked 16 bits are the spec's decision D10
(log 11). -/
def Obligations.AddIndexIsModulo65536 : Prop :=
  ∀ (x : Nibble) (s : State),
    ∃ t, exec (.addI x) s = .next t ∧ t.I.toNat = (s.I.toNat + (readV s x).toNat) % 65536 ∧
      ChangesOnly (fun c => c = .I) s t

/-- R142: LD F,VX writes 0x0050 + 5·VX to I; no mask on VX is the spec's decision D20 (log 17). -/
def Obligations.GlyphAddressIsLinear : Prop :=
  ∀ (x : Nibble) (s : State),
    ∃ t, exec (.ldF x) s = .next t ∧ t.I.toNat = 0x0050 + 5 * (readV s x).toNat ∧
      ChangesOnly (fun c => c = .I) s t

/-- R143: LD B,VX stores the hundreds, tens and ones of VX at I, I+1 and I+2, and changes no other byte and no register.
The range premise is where the spec's decision D9 lets it execute (log 10). -/
def Obligations.DecimalDigitsStored : Prop :=
  ∀ (x : Nibble) (s : State), s.I.toNat + 2 ≤ 0xFFF →
    ∃ t, exec (.ldB x) s = .next t ∧
      (memRead t.mem (indexAddr s)).toNat = (readV s x).toNat / 100 ∧
      (memRead t.mem (indexAddr s + 1)).toNat = (readV s x).toNat / 10 % 10 ∧
      (memRead t.mem (indexAddr s + 2)).toNat = (readV s x).toNat % 10 ∧
      ChangesOnly (fun c => ∃ k < 3, c = .memByte (indexAddr s + k)) s t

/-- R144: LD [I],VX stores V0 to VX at I to I+X, and changes no other byte, no register and not I (D26, log 21). The
range premise is where the spec's decision D9 lets it execute (log 10). -/
def Obligations.RegistersStored : Prop :=
  ∀ (x : Nibble) (s : State), s.I.toNat + x.toNat ≤ 0xFFF →
    ∃ t, exec (.storeRegs x) s = .next t ∧
      (∀ k : Nibble, k.toNat ≤ x.toNat → memRead t.mem (indexAddr s + k.toNat) = readV s k) ∧
      ChangesOnly (fun c => ∃ k ≤ x.toNat, c = .memByte (indexAddr s + k)) s t

/-- R145: LD VX,[I] loads V0 to VX from I to I+X, and changes no other register, no byte and not I (D26, log 21). The
range premise is where the spec's decision D9 lets it execute (log 10). -/
def Obligations.RegistersLoaded : Prop :=
  ∀ (x : Nibble) (s : State), s.I.toNat + x.toNat ≤ 0xFFF →
    ∃ t, exec (.loadRegs x) s = .next t ∧
      (∀ k : Nibble, k.toNat ≤ x.toNat → readV t k = memRead s.mem (indexAddr s + k.toNat)) ∧
      ChangesOnly (fun c => ∃ k : Nibble, k.toNat ≤ x.toNat ∧ c = .reg k) s t

/-- R43, R211, R213: an instruction whose data range passes 0xFFF raises DATA_OUT_OF_RANGE, code 4, with `I` recorded,
and has no other effect. The spec's decisions D9, D14 and D18 (log 10, log 12, log 16). -/
def Obligations.DataRangeErrorHasNoEffect : Prop :=
  ∀ (i : Instr) (s : State), 1 ≤ dataBytes i → 0xFFF < s.I.toNat + dataBytes i - 1 →
    ∃ t, exec i s = .next t ∧ t.err = .dataOutOfRange ∧ structuredError t = (4, s.I) ∧
      ChangesOnly (fun c => c = .err ∨ c = .errInfo) s t

/-- R144 with R145: loading back what LD [I],VX stored leaves every register as it was. That neither instruction moves `I` is
the spec's decision D26 (log 21), the range premise its decision D9 (log 10). -/
def Obligations.StoreThenLoadKeepsRegisters : Prop :=
  ∀ (x : Nibble) (s : State), s.I.toNat + x.toNat ≤ 0xFFF →
    ∃ t u, exec (.storeRegs x) s = .next t ∧ exec (.loadRegs x) t = .next u ∧
      ChangesOnly (fun c => ∃ k ≤ x.toNat, c = .memByte (indexAddr s + k)) s u

/-- R49: after LD [I],VX or LD B,VX stores a byte at address a, a fetch from a sees the new byte as its high byte, and a
fetch from a − 1 sees it as its low byte, with no further action. The range premises are where the spec's decision D9 lets
the store execute (log 10). -/
def Obligations.StoreIsSeenByNextFetch : Prop :=
  (∀ (x : Nibble) (s : State), s.I.toNat + x.toNat ≤ 0xFFF →
    ∃ t, exec (.storeRegs x) s = .next t ∧ ∀ (k : Nibble) (at' : Word), k.toNat ≤ x.toNat →
      (at'.toNat = indexAddr s + k.toNat → highByte (fetchWord (setPc t at')) = readV s k) ∧
      (at'.toNat + 1 = indexAddr s + k.toNat → lowByte (fetchWord (setPc t at')) = readV s k)) ∧
  (∀ (x : Nibble) (s : State), s.I.toNat + 2 ≤ 0xFFF →
    ∃ t, exec (.ldB x) s = .next t ∧ ∀ (k digit : Nat) (at' : Word),
      [(readV s x).toNat / 100, (readV s x).toNat / 10 % 10, (readV s x).toNat % 10][k]? = some digit →
      (at'.toNat = indexAddr s + k → (highByte (fetchWord (setPc t at'))).toNat = digit) ∧
      (at'.toNat + 1 = indexAddr s + k → (lowByte (fetchWord (setPc t at'))).toNat = digit))

/-! ### Display (44_display.md) -/

/-- R160: CLS turns every pixel off and changes nothing else. -/
def Obligations.ClearScreenTurnsAllOff : Prop :=
  ∀ s : State, ∃ t, exec .cls s = .next t ∧ (∀ y x, pixel t.fb y x = false) ∧
    ChangesOnly (fun c => ∃ y x, c = .pixel y x) s t

/-- R161: DRW inverts exactly the pixels that a set, unclipped sprite bit covers, and writes to VF whether one of them
was on; nothing else changes. The bit order is the spec's decision D17, N = 0 and the range premise its decisions D18 and
D9 (log 10, log 15, log 16). -/
def Obligations.DrawXorsAndReportsCollision : Prop :=
  ∀ (x y n : Nibble) (s : State) (covers : Fin 32 → Fin 64 → Prop),
    (n.toNat = 0 ∨ s.I.toNat + n.toNat - 1 ≤ 0xFFF) →
    (∀ r c, covers r c ↔ spriteCovers (fun k => memRead s.mem (s.I.toNat + k)) ((readV s x).toNat % 64)
      ((readV s y).toNat % 32) n.toNat r.val c.val) →
    ∃ t, exec (.drw x y n) s = .next t ∧
      (∀ r c, covers r c → pixel t.fb r c = !pixel s.fb r c) ∧
      (∀ r c, ¬ covers r c → pixel t.fb r c = pixel s.fb r c) ∧
      ((∃ r c, covers r c ∧ pixel s.fb r c = true) → readV t VF = 1) ∧
      ((¬ ∃ r c, covers r c ∧ pixel s.fb r c = true) → readV t VF = 0) ∧
      ChangesOnly (fun c => c = .reg VF ∨ ∃ r k, c = .pixel r k) s t

/-- R161 (f): drawing the same sprite at the same coordinates twice restores the framebuffer, and the second VF is 1 iff
a covered pixel was off before the first draw. With X = F or Y = F the first draw overwrites a coordinate, so those forms
are left out, as the spec's S-P7 says. The bit order, N = 0 and the range premise are the spec's decisions D17, D18 and D9
(log 15, log 16, log 10). -/
def Obligations.DrawTwiceRestoresScreen : Prop :=
  ∀ (x y n : Nibble) (s : State), x ≠ VF → y ≠ VF → (n.toNat = 0 ∨ s.I.toNat + n.toNat - 1 ≤ 0xFFF) →
    ∃ t u, exec (.drw x y n) s = .next t ∧ exec (.drw x y n) t = .next u ∧
      ChangesOnly (fun c => c = .reg VF) s u ∧
      (readV u VF = 1 ↔ ∃ (r : Fin 32) (c : Fin 64), spriteCovers (fun k => memRead s.mem (s.I.toNat + k))
        ((readV s x).toNat % 64) ((readV s y).toNat % 32) n.toNat r.val c.val ∧ pixel s.fb r c = false)

/-! ### Keypad and timers (45_keypad_timers.md) -/

/-- R172, R174, R175: LD VX,DT reads the delay timer; LD DT,VX and LD ST,VX write the timers. -/
def Obligations.TimerAccess : Prop :=
  ∀ (x : Nibble) (s : State),
    (∃ t, exec (.ldVxDt x) s = .next t ∧ readV t x = s.DT ∧ ChangesOnly (fun c => c = .reg x) s t) ∧
    (∃ t, exec (.ldDtVx x) s = .next t ∧ t.DT = readV s x ∧ ChangesOnly (fun c => c = .DT) s t) ∧
    (∃ t, exec (.ldStVx x) s = .next t ∧ t.ST = readV s x ∧ ChangesOnly (fun c => c = .ST) s t)

/-- R173: LD VX,K writes the smallest pressed key to VX at once, or blocks with X remembered. The choice of the key and
of the Step are the spec's decision D23 (log 19). -/
def Obligations.WaitForKeyCompletesOrBlocks : Prop :=
  ∀ (x : Nibble) (s : State),
    (∀ k : Nibble, keyPressed s k = true → (∀ j : Nibble, j.toNat < k.toNat → keyPressed s j = false) →
      ∃ t, exec (.ldVxK x) s = .next t ∧ (readV t x).toNat = k.toNat ∧ ChangesOnly (fun c => c = .reg x) s t) ∧
    ((∀ k : Nibble, keyPressed s k = false) →
      ∃ t, exec (.ldVxK x) s = .next t ∧ t.wait = true ∧ t.waitX = x ∧
        ChangesOnly (fun c => c = .wait ∨ c = .waitX) s t)

/-! ### Host operations and reset -/

/-- R191: a ROM of at most 0xE00 bytes is copied verbatim from 0x200 on, and nothing else changes. That the host may load in
phase CONSTRUCTED and is then in phase LOADED (R190) is the spec's decision D30 (log 22). -/
def Obligations.LoadRomCopiesVerbatim : Prop :=
  ∀ (bytes : List Byte) (s : State), bytes.length ≤ 0xE00 →
    ∃ t, loadROM bytes s = .ok t ∧ (∀ (i : Nat) (b : Byte), bytes[i]? = some b → memRead t.mem (0x200 + i) = b) ∧
      ChangesOnly (fun c => ∃ i < bytes.length, c = .memByte (0x200 + i)) s t ∧
      hostMove (.loadROM bytes) ⟨.constructed, s⟩ = some (⟨.loaded, t⟩, .loaded)

/-- R192: a ROM longer than 0xE00 bytes is a LoadError, and no state changes. That the host is then in phase FAILED and has
no Step (R190) is the spec's decision D30 (log 22). -/
def Obligations.LoadRomRefusesLongRom : Prop :=
  ∀ (bytes : List Byte) (s : State), 0xE00 < bytes.length →
    loadROM bytes s = .error .romTooLong ∧
      hostMove (.loadROM bytes) ⟨.constructed, s⟩ = some (⟨.failed, s⟩, .loadError .romTooLong) ∧
      hostMove .step ⟨.failed, s⟩ = none

/-- R194: n calls of TickTimers take n from each timer, holding at 0, and change nothing else, in every run state (the
spec's decision D28; log 22); the host has the call in every phase but FAILED (its decision D30; log 22). -/
def Obligations.TickTimersCountDownAndHold : Prop :=
  (∀ (n : Nat) (s : State),
    (tickTimers^[n] s).DT.toNat = s.DT.toNat - n ∧ (tickTimers^[n] s).ST.toNat = s.ST.toNat - n ∧
      ChangesOnly (fun c => c = .DT ∨ c = .ST) s (tickTimers^[n] s)) ∧
  ∀ h : Session, h.phase ≠ .failed → hostMove .tickTimers h = some (⟨h.phase, tickTimers h.core⟩, .done)

/-- R195: SetKey writes one key and changes nothing else; it does not release a key-wait by itself. The host has the call
in every phase but FAILED (the spec's decision D30; log 22). -/
def Obligations.SetKeyWritesOneKey : Prop :=
  (∀ (k : Nibble) (p : Bool) (s : State),
    keyPressed (setKey k p s) k = p ∧ ChangesOnly (fun c => c = .key k) s (setKey k p s)) ∧
  ∀ (k : Nibble) (p : Bool) (h : Session), h.phase ≠ .failed →
    hostMove (.setKey k p) h = some (⟨h.phase, setKey k p h.core⟩, .done)

/-- R196, R198: GetFramebuffer and GetDiagnostics change no state; the first gives the 2048 pixels, pixel (x, y) at index
y·64 + x (the spec's decision D31; log 27), the second the whole of `diag`. -/
def Obligations.ReadoutsChangeNothing : Prop :=
  ∀ h : Session, h.phase ≠ .failed →
    (∃ bits : List Bool, hostMove .getFramebuffer h = some (h, .pixels bits) ∧ bits.length = 2048 ∧
      ∀ (y : Fin 32) (x : Fin 64), bits[y.val * 64 + x.val]? = some (pixel h.core.fb y x)) ∧
    hostMove .getDiagnostics h = some (h, .opcodes h.core.diag)

/-- R28, R240: construction puts `pc` at 0x0200 and the font at 0x050 to 0x09F (stated by the source), and everything
else at zero (the spec's decision D24; log 3). A later reset, which the host has in every phase (decision D30; log 22),
gives the same state with the parameters kept (D24); that the count of draws goes on is this model's choice (log 23). -/
def Obligations.ResetValues : Prop :=
  State.reset = construct defaultConfig ∧
  (∀ h : Session, hostMove .reset h = some (⟨.constructed, hostReset h.core⟩, .done)) ∧
  ∀ cfg : Config,
    (construct cfg).pc = 0x0200 ∧
    (∀ (a : Nat) (h : a < 80), memRead (construct cfg).mem (0x050 + a) = cfg.font[a]) ∧
    (∀ a : Nat, ¬ (0x050 ≤ a ∧ a < 0x0A0) → memRead (construct cfg).mem a = 0) ∧
    (∀ x, readV (construct cfg) x = 0) ∧ (construct cfg).I = 0 ∧ (construct cfg).DT = 0 ∧ (construct cfg).ST = 0 ∧
    (construct cfg).sp.val = 0 ∧ (∀ k : Fin 16, (construct cfg).stack[k.val] = 0) ∧
    (∀ y x, pixel (construct cfg).fb y x = false) ∧ (∀ k, keyPressed (construct cfg) k = false) ∧
    (construct cfg).wait = false ∧ (construct cfg).waitX = 0 ∧ (construct cfg).IR = 0 ∧
    structuredError (construct cfg) = (0, 0) ∧ (construct cfg).diag = [] ∧ (construct cfg).cfg = cfg ∧
    ∀ s : State, s.cfg = cfg → ChangesOnly (fun c => c = .draws) (construct cfg) (hostReset s) ∧
      (hostReset s).draws = s.draws

/-- R190, R199: the host has a move exactly where its duties allow it: LoadROM in phase CONSTRUCTED, Step in phase LOADED,
nothing but reset in phase FAILED, and reset always. No move for a host that breaks its duties is the spec's decision D30
(log 22). -/
def Obligations.HostDutiesGateMoves : Prop :=
  ∀ (o : HostOp) (h : Session),
    hostMove o h = none ↔
      (o = .step ∧ h.phase ≠ .loaded) ∨ ((∃ bytes, o = .loadROM bytes) ∧ h.phase ≠ .constructed) ∨
        (o ≠ .reset ∧ h.phase = .failed)

/-! ### Invariants and whole-machine rules -/

/-- The invariant holds after reset, with the default parameters and with any others. The zeros it needs of sp, wait, err,
err_info and diag are the spec's decision D24 (log 3), and the canonical list is this model's form of memory (log 5). -/
def Obligations.ResetMeetsInvariant : Prop :=
  Inv State.reset ∧ ∀ cfg : Config, Inv (construct cfg)

/-- Every step from any state with the invariant keeps it: memory stays canonical, `pc` and the return addresses stay in
the ranges of R13, and the error record stays precise (R211, R213). The clauses rest on the spec's decisions D7 and D9
(log 10), D10 (log 11), D12 to D14 (log 12), D23 (log 19) and D2 to D6 (log 8, log 9), and the canonical list is this
model's form of memory (log 5). -/
def Obligations.StepKeepsInvariant : Prop :=
  ∀ s t : State, Inv s → step s = .next t → Inv t

/-- The session invariant holds after construction, and every move of the host from any session with it keeps it; so
every sequence of moves, in any interleaving (R197, the spec's decision D27), keeps it. That the host has no Step before a
successful LoadROM, and no move but the allowed ones, is the spec's decision D30 (log 22); `Inv` rests on the decisions
that StepKeepsInvariant names, and the zeros after reset on D24 (log 3). -/
def Obligations.SessionsKeepInvariant : Prop :=
  (∀ cfg : Config, SessionInv (Session.start cfg)) ∧
  (∀ (o : HostOp) (h h' : Session) (r : HostReply), SessionInv h → hostMove o h = some (h', r) → SessionInv h') ∧
  (∀ (ops : List HostOp) (h h' : Session), SessionInv h → hostRun ops h = some h' → SessionInv h')

/-- R218, R85: once an error is latched, Step changes nothing and returns `IR`, TickTimers changes the timers only, SetKey
its key only, LoadROM the bytes it stores only, and the readouts nothing; so no operation but reset changes `err` or
`err_info`, and reset clears them. The no-op Step is the spec's decision D13 (log 12), the value returned D34 (log 25),
where the host has each move D30 (log 22). -/
def Obligations.ErrorLatchesUntilReset : Prop :=
  ∀ (h h' : Session) (r : HostReply), h.core.err ≠ .noError →
    (hostMove .step h = some (h', r) → h' = h ∧ r = .opcode h.core.IR) ∧
    (hostMove .tickTimers h = some (h', r) → ChangesOnly (fun c => c = .DT ∨ c = .ST) h.core h'.core) ∧
    (∀ k p, hostMove (.setKey k p) h = some (h', r) → ChangesOnly (fun c => c = .key k) h.core h'.core) ∧
    (∀ bytes, hostMove (.loadROM bytes) h = some (h', r) →
      ChangesOnly (fun c => ∃ i < bytes.length, c = .memByte (0x200 + i)) h.core h'.core) ∧
    (hostMove .getFramebuffer h = some (h', r) → h' = h) ∧
    (hostMove .getDiagnostics h = some (h', r) → h' = h) ∧
    (∀ o, o ≠ .reset → hostMove o h = some (h', r) → structuredError h'.core = structuredError h.core) ∧
    (hostMove .reset h = some (h', r) → structuredError h'.core = (0, 0))

/-- The prose of 10_state.md about who writes what, over all instructions and states: after the fetch an instruction that
raises an error changes `err` and `err_info` only (R213), and any other changes a component only if `mayWriteNormally`
names it for that state (R10, R11, R12, R14 to R21, R23 to R25, R30, R31), a store only the bytes from `I` on, CALL only
the stack entry at `sp`, DRW only the pixels its sprite covers. It rests on the spec's decisions D9, D12, D15, D17, D18,
D21, D23 and D26 (log 10, log 12, log 13, log 15, log 16, log 18, log 19, log 21). -/
def Obligations.EachComponentHasItsWriters : Prop :=
  ∀ (i : Instr) (s t : State), exec i s = .next t → ChangesOnly (mayWrite i s) s t

/-- R24: `diag` is append-only; a Step appends at most one opcode, and exactly the one it fetched. -/
def Obligations.DiagnosticsOnlyGrow : Prop :=
  ∀ s t : State, step s = .next t → t.diag = s.diag ∨ t.diag = s.diag ++ [t.IR]

/-- R218: a run that ends without an error had none on the way: an error is never lost by stepping on. That no Step clears an
error is the spec's decision D13 (log 12). -/
def Obligations.SafeRunStartsWithoutError : Prop :=
  ∀ (k : Nat) (s t : State), SafeRun k s t → s.err = .noError

/-- This model's own `withFetchWord` (log 26): the very next step runs exactly the instruction placed, or records the
unrecognized word, and nothing but what the fetch needs is changed. -/
def Obligations.PlacedWordRunsNext : Prop :=
  ∀ (s : State) (w : Word),
    Ready (s.withFetchWord 16 w.toNat) ∧ fetchWord (s.withFetchWord 16 w.toNat) = w ∧
    (∀ i, decodeWord w = .ok i → step (s.withFetchWord 16 w.toNat) = exec i (afterFetch (s.withFetchWord 16 w.toNat))) ∧
    (∀ r, decodeWord w = .error r → ∃ t, step (s.withFetchWord 16 w.toNat) = .next t ∧ t.diag = s.diag ++ [w]) ∧
    (s.pc.toNat ≤ 0x0FFE → (s.withFetchWord 16 w.toNat).pc = s.pc) ∧
    ChangesOnly (fun c => c = .pc ∨ c = .wait ∨ c = .err ∨
      c = .memByte (s.withFetchWord 16 w.toNat).pc.toNat ∨
      c = .memByte ((s.withFetchWord 16 w.toNat).pc.toNat + 1)) s (s.withFetchWord 16 w.toNat)
end

