-- ==== Sys2Proof/Laws/Decode.lean ====
section
/-! SUPPORT. The fields of an encoded word, and the bytes of a word. -/

namespace Sys2Proof

/-! ### Slices of concatenations, at any width -/

theorem extract_append_high {a b : Nat} (u : BitVec a) (v : BitVec b) : (u ++ v).extractLsb' b a = u := by
  ext i hi
  simp [BitVec.getLsbD_append, hi]

theorem extract_append_low {a b : Nat} (u : BitVec a) (v : BitVec b) (s l : Nat) (h : s + l ≤ b) :
    (u ++ v).extractLsb' s l = v.extractLsb' s l := by
  ext i hi
  simp [BitVec.getLsbD_append, show s + i < b by omega]

theorem extract_all {b : Nat} (v : BitVec b) : v.extractLsb' 0 b = v := by
  simp

theorem append_extract {a b : Nat} (w : BitVec (a + b)) : w.extractLsb' b a ++ w.extractLsb' 0 b = w := by
  simp

theorem extract_extract {w : Nat} (v : BitVec w) (s l s' l' : Nat) (h : s' + l' ≤ l) :
    (v.extractLsb' s l).extractLsb' s' l' = v.extractLsb' (s + s') l' := by
  ext i hi
  simp [show s' + i < l by omega, Nat.add_assoc]

/-! ### Fields of a word put together from its parts (R61, R62) -/

section Fields

variable (g x y n : Nibble) (nn : Byte) (nnn : Addr)

@[simp] theorem fieldG_formatNNN : fieldG (formatNNN g nnn) = g :=
  extract_append_high g nnn

@[simp] theorem fieldNNN_formatNNN : fieldNNN (formatNNN g nnn) = nnn :=
  (extract_append_low g nnn 0 12 (by decide)).trans (extract_all nnn)

theorem formatXNN_eq : formatXNN g x nn = formatNNN g (x ++ nn) := rfl

@[simp] theorem fieldG_formatXNN : fieldG (formatXNN g x nn) = g :=
  fieldG_formatNNN g (x ++ nn)

@[simp] theorem fieldX_formatXNN : fieldX (formatXNN g x nn) = x :=
  (extract_append_low g (x ++ nn) 8 4 (by decide)).trans (extract_append_high x nn)

@[simp] theorem fieldNN_formatXNN : fieldNN (formatXNN g x nn) = nn :=
  (extract_append_low g (x ++ nn) 0 8 (by decide)).trans
    ((extract_append_low x nn 0 8 (by decide)).trans (extract_all nn))

theorem formatXYN_eq : formatXYN g x y n = formatXNN g x (y ++ n) := rfl

@[simp] theorem fieldG_formatXYN : fieldG (formatXYN g x y n) = g :=
  fieldG_formatXNN g x (y ++ n)

@[simp] theorem fieldX_formatXYN : fieldX (formatXYN g x y n) = x :=
  fieldX_formatXNN g x (y ++ n)

@[simp] theorem fieldNN_formatXYN : fieldNN (formatXYN g x y n) = y ++ n :=
  fieldNN_formatXNN g x (y ++ n)

theorem fieldY_eq (op : Word) : fieldY op = (fieldNN op).extractLsb' 4 4 :=
  (extract_extract op 0 8 4 4 (by decide)).symm

theorem fieldN_eq (op : Word) : fieldN op = (fieldNN op).extractLsb' 0 4 :=
  (extract_extract op 0 8 0 4 (by decide)).symm

@[simp] theorem fieldY_formatXYN : fieldY (formatXYN g x y n) = y := by
  rw [fieldY_eq, fieldNN_formatXYN]
  exact extract_append_high y n

@[simp] theorem fieldN_formatXYN : fieldN (formatXYN g x y n) = n := by
  rw [fieldN_eq, fieldNN_formatXYN]
  exact (extract_append_low y n 0 4 (by decide)).trans (extract_all n)

end Fields

/-! ### A word is its fields -/

theorem word_eq_formatNNN (op : Word) : formatNNN (fieldG op) (fieldNNN op) = op :=
  append_extract (a := 4) (b := 12) op

theorem fieldNNN_eq (op : Word) : fieldX op ++ fieldNN op = fieldNNN op := by
  have h := append_extract (a := 4) (b := 8) (fieldNNN op)
  have h8 : (fieldNNN op).extractLsb' 8 4 = fieldX op := extract_extract op 0 12 8 4 (by decide)
  have h0 : (fieldNNN op).extractLsb' 0 8 = fieldNN op := extract_extract op 0 12 0 8 (by decide)
  rwa [h8, h0] at h

theorem fieldNN_eq (op : Word) : fieldY op ++ fieldN op = fieldNN op := by
  have h := append_extract (a := 4) (b := 4) (fieldNN op)
  rwa [← fieldY_eq, ← fieldN_eq] at h

theorem word_eq_formatXNN (op : Word) : formatXNN (fieldG op) (fieldX op) (fieldNN op) = op := by
  rw [formatXNN_eq, fieldNNN_eq]
  exact word_eq_formatNNN op

theorem word_eq_formatXYN (op : Word) : formatXYN (fieldG op) (fieldX op) (fieldY op) (fieldN op) = op := by
  rw [formatXYN_eq, fieldNN_eq]
  exact word_eq_formatXNN op

/-! ### Masks -/

theorem formatNNN_and (g g' : Nibble) (a a' : Addr) :
    formatNNN g a &&& formatNNN g' a' = formatNNN (g &&& g') (a &&& a') :=
  BitVec.and_append

theorem formatXNN_and (g g' x x' : Nibble) (b b' : Byte) :
    formatXNN g x b &&& formatXNN g' x' b' = formatXNN (g &&& g') (x &&& x') (b &&& b') := by
  simp only [formatXNN_eq, formatNNN_and]
  exact congrArg _ BitVec.and_append

theorem formatXYN_and (g g' x x' y y' n n' : Nibble) :
    formatXYN g x y n &&& formatXYN g' x' y' n' =
      formatXYN (g &&& g') (x &&& x') (y &&& y') (n &&& n') := by
  simp only [formatXYN_eq, formatXNN_and]
  exact congrArg _ BitVec.and_append

/-- Two group selectors under the mask of the top nibble (R64). -/
theorem and_F000 (g : Nibble) (a : Addr) : formatNNN g a &&& 0xF000#16 = formatNNN g 0 := by
  have h := formatNNN_and g 0xF#4 a 0#12
  have hg : g &&& 0xF#4 = g := BitVec.and_allOnes
  rwa [hg, BitVec.and_zero] at h

/-- The mask of groups E and F (R64). -/
theorem and_F0FF (g x : Nibble) (b : Byte) : formatXNN g x b &&& 0xF0FF#16 = formatXNN g 0 b := by
  have h := formatXNN_and g 0xF#4 x 0#4 b 0xFF#8
  have hg : g &&& 0xF#4 = g := BitVec.and_allOnes
  have hb : b &&& 0xFF#8 = b := BitVec.and_allOnes
  rwa [hg, hb, BitVec.and_zero] at h

/-- The mask of group 8 (R64). -/
theorem and_F00F (g x y n : Nibble) : formatXYN g x y n &&& 0xF00F#16 = formatXYN g 0 0 n := by
  have h := formatXYN_and g 0xF#4 x 0#4 y 0#4 n 0xF#4
  have hg : g &&& 0xF#4 = g := BitVec.and_allOnes
  have hn : n &&& 0xF#4 = n := BitVec.and_allOnes
  rwa [hg, hn, BitVec.and_zero, BitVec.and_zero] at h

/-! ### The secondary lookups (R63) -/

theorem decodeGroup0_ok {op : Word} {i : Instr} (h : decodeGroup0 op = .ok i) :
    encode i = op ∧ examinedBits i = 0xFFFF#16 := by
  unfold decodeGroup0 at h
  split_ifs at h with h1 h2 <;> cases h
  · exact ⟨h1.symm, rfl⟩
  · exact ⟨h2.symm, rfl⟩

theorem decodeGroup8_ok {x y n : Nibble} {i : Instr} (h : decodeGroup8 x y n = .ok i) :
    encode i = formatXYN 0x8#4 x y n ∧ examinedBits i = 0xFFFF#16 := by
  unfold decodeGroup8 at h
  split_ifs at h <;> cases h <;> subst_vars <;> exact ⟨rfl, rfl⟩

theorem decodeGroupE_ok {x : Nibble} {nn : Byte} {i : Instr} (h : decodeGroupE x nn = .ok i) :
    encode i = formatXNN 0xE#4 x nn ∧ examinedBits i = 0xFFFF#16 := by
  unfold decodeGroupE at h
  split_ifs at h <;> cases h <;> subst_vars <;> exact ⟨rfl, rfl⟩

theorem decodeGroupF_ok {x : Nibble} {nn : Byte} {i : Instr} (h : decodeGroupF x nn = .ok i) :
    encode i = formatXNN 0xF#4 x nn ∧ examinedBits i = 0xFFFF#16 := by
  unfold decodeGroupF at h
  split_ifs at h <;> cases h <;> subst_vars <;> exact ⟨rfl, rfl⟩

/-- The 16 values of a group selector. -/
theorem nibble_cases (g : Nibble) :
    g = 0x0#4 ∨ g = 0x1#4 ∨ g = 0x2#4 ∨ g = 0x3#4 ∨ g = 0x4#4 ∨ g = 0x5#4 ∨ g = 0x6#4 ∨ g = 0x7#4 ∨
      g = 0x8#4 ∨ g = 0x9#4 ∨ g = 0xA#4 ∨ g = 0xB#4 ∨ g = 0xC#4 ∨ g = 0xD#4 ∨ g = 0xE#4 ∨ g = 0xF#4 := by
  revert g
  decide

/-! ### Bytes and words (R42) -/

@[simp] theorem wordOfBytes_split (w : Word) : wordOfBytes (highByte w) (lowByte w) = w :=
  append_extract (a := 8) (b := 8) w

/-- Big-endian: 256 times the byte at the lower address plus the other one. -/
theorem toNat_wordOfBytes (hi lo : Byte) : (wordOfBytes hi lo).toNat = 256 * hi.toNat + lo.toNat := by
  have hl := lo.isLt
  have h : (wordOfBytes hi lo).toNat = hi.toNat <<< 8 ||| lo.toNat := BitVec.toNat_append hi lo
  rw [h, ← Nat.shiftLeft_add_eq_or_of_lt hl, Nat.shiftLeft_eq]
  omega

/-- What the decoder reads from a table word is what it reads from the word. -/
theorem decodeTableWord_eq (nbits w : Nat) :
    decodeTableWord nbits w = (decodeWord (tableWord nbits w)).toOption := by
  simp only [decodeTableWord, decodeBytes, wordOfBytes_split]
  cases decodeWord (tableWord nbits w) <;> rfl

end Sys2Proof
end

