-- ==== Sys2Proof/Laws/Memory.lean ====
section
/-! SUPPORT. What the memory operations do: read after write, and the canonical form. -/

namespace Sys2Proof.Machine

theorem memRead_memErase (m : Memory) (a c : Nat) :
    memRead (memErase m a) c = if c = a then resetByte a else memRead m c := by
  induction m with
  | nil => by_cases h : c = a <;> simp [memErase, memRead, h]
  | cons e rest ih =>
    obtain ⟨k, b⟩ := e
    by_cases hk : k = a
    · subst hk
      by_cases hc : c = k
      · subst hc
        simpa [memErase] using ih
      · have hc' : k ≠ c := fun h => hc h.symm
        simp [memErase, memRead, ih, hc, hc']
    · by_cases hc : c = a
      · subst hc
        simp [memErase, memRead, ih, hk]
      · simp [memErase, memRead, ih, hk, hc]

theorem memRead_memInsert (m : Memory) (a c : Nat) (b : Byte) :
    memRead (memInsert m a b) c = if c = a then b else memRead m c := by
  induction m with
  | nil =>
    by_cases h : c = a
    · simp [memInsert, memRead, h]
    · have h' : a ≠ c := fun q => h q.symm
      simp [memInsert, memRead, h, h']
  | cons e rest ih =>
    obtain ⟨k, d⟩ := e
    by_cases hk : k < a
    · by_cases hc : c = a
      · subst hc
        have : k ≠ c := by omega
        simpa [memInsert, memRead, hk, this] using ih
      · simp only [hc, if_false] at ih
        simp [memInsert, memRead, hk, hc, ih]
    · by_cases hc : c = a
      · simp [memInsert, memRead, hk, hc]
      · have h' : a ≠ c := fun q => hc q.symm
        simp [memInsert, memRead, hk, hc, h']

/-- Read after write: the byte written, and every other byte as before (R44). It needs no canonical form. -/
@[simp] theorem memRead_memWrite (m : Memory) (a c : Nat) (b : Byte) :
    memRead (memWrite m a b) c = if c = a then b else memRead m c := by
  unfold memWrite
  by_cases hb : b = resetByte a
  · rw [if_pos hb, memRead_memErase, hb]
  · rw [if_neg hb, memRead_memInsert, memRead_memErase]
    by_cases hc : c = a <;> simp [hc]

/-- Reading after `storeBytes`: inside the stored range the stored byte, outside it the old byte. -/
theorem memRead_storeBytes (bs : List Byte) : ∀ (m : Memory) (a c : Nat),
    memRead (storeBytes m a bs) c =
      if h : a ≤ c ∧ c < a + bs.length then bs[c - a]'(by omega) else memRead m c := by
  induction bs with
  | nil =>
    intro m a c
    have : ¬ (a ≤ c ∧ c < a) := by omega
    simp [storeBytes, this]
  | cons b rest ih =>
    intro m a c
    rw [storeBytes, ih, memRead_memWrite]
    by_cases hca : c = a
    · subst hca
      simp
    · by_cases hin : a + 1 ≤ c ∧ c < a + 1 + rest.length
      · have hin' : a ≤ c ∧ c < a + (b :: rest).length := by simp; omega
        rw [dif_pos hin, dif_pos hin']
        have hs : c - a = (c - (a + 1)) + 1 := by omega
        simp [hs]
      · have hin' : ¬ (a ≤ c ∧ c < a + (b :: rest).length) := by simp; omega
        rw [dif_neg hin, dif_neg hin', if_neg hca]

/-! ### The canonical form -/

theorem wfFrom_mono {m : Memory} : ∀ {lo lo' : Nat}, lo' ≤ lo → Memory.wfFrom lo m = true →
    Memory.wfFrom lo' m = true := by
  cases m with
  | nil => intros; rfl
  | cons e rest =>
    intro lo lo' h hw
    simp only [Memory.wfFrom, Bool.and_eq_true, decide_eq_true_eq] at hw ⊢
    exact ⟨⟨⟨by omega, hw.1.1.2⟩, hw.1.2⟩, hw.2⟩

theorem wfFrom_memErase (m : Memory) (a : Nat) : ∀ {lo : Nat}, Memory.wfFrom lo m = true →
    Memory.wfFrom lo (memErase m a) = true := by
  induction m with
  | nil => intros; rfl
  | cons e rest ih =>
    obtain ⟨k, c⟩ := e
    intro lo hw
    have hw' := hw
    simp only [Memory.wfFrom, Bool.and_eq_true, decide_eq_true_eq] at hw'
    by_cases hk : k = a
    · simpa [memErase, hk] using wfFrom_mono (show lo ≤ k + 1 by omega) (ih hw'.2)
    · simp only [memErase, hk, if_false, Memory.wfFrom, Bool.and_eq_true, decide_eq_true_eq]
      exact ⟨hw'.1, ih hw'.2⟩

/-- No entry of a canonical list is left for an erased address, so an insertion there keeps the order strict. -/
theorem wfFrom_memInsert_memErase (m : Memory) (a : Nat) (b : Byte) (ha : a < 4096) (hb : b ≠ resetByte a) :
    ∀ {lo : Nat}, lo ≤ a → Memory.wfFrom lo m = true → Memory.wfFrom lo (memInsert (memErase m a) a b) = true := by
  induction m with
  | nil =>
    intro lo hlo _
    simp [memErase, memInsert, Memory.wfFrom, hlo, ha, hb]
  | cons e rest ih =>
    obtain ⟨k, c⟩ := e
    intro lo hlo hw
    have hw' := hw
    simp only [Memory.wfFrom, Bool.and_eq_true, decide_eq_true_eq] at hw'
    by_cases hk : k = a
    · simpa [memErase, hk] using ih hlo (wfFrom_mono (show lo ≤ k + 1 by omega) hw'.2)
    · by_cases hlt : k < a
      · simp only [memErase, hk, if_false, memInsert, hlt, if_true, Memory.wfFrom, Bool.and_eq_true,
          decide_eq_true_eq]
        exact ⟨hw'.1, ih (by omega) hw'.2⟩
      · simp only [memErase, hk, if_false, memInsert, hlt, Memory.wfFrom, Bool.and_eq_true, decide_eq_true_eq]
        exact ⟨⟨⟨hlo, ha⟩, hb⟩, ⟨⟨by omega, hw'.1.1.2⟩, hw'.1.2⟩, wfFrom_memErase rest a hw'.2⟩

/-- A write inside the 4096 cells keeps the canonical form. -/
theorem memWrite_wf {m : Memory} {a : Nat} (b : Byte) (ha : a < 4096) (h : Memory.wf m = true) :
    Memory.wf (memWrite m a b) = true := by
  unfold memWrite
  by_cases hb : b = resetByte a
  · rw [if_pos hb]
    exact wfFrom_memErase m a h
  · rw [if_neg hb]
    exact wfFrom_memInsert_memErase m a b ha hb (Nat.zero_le a) h

/-- A store inside the 4096 cells keeps the canonical form. -/
theorem storeBytes_wf (bs : List Byte) : ∀ {m : Memory} {a : Nat}, a + bs.length ≤ 4096 → Memory.wf m = true →
    Memory.wf (storeBytes m a bs) = true := by
  induction bs with
  | nil => intro m a _ h; exact h
  | cons b rest ih =>
    intro m a hle h
    simp only [List.length_cons] at hle
    exact ih (by omega) (memWrite_wf b (by omega) h)

/-- Equal canonical memories are equal data: two canonical lists that read alike everywhere are one list. -/
theorem wfFrom_ext (m : Memory) : ∀ {m' : Memory} {lo : Nat}, Memory.wfFrom lo m = true → Memory.wfFrom lo m' = true →
    (∀ a, memRead m a = memRead m' a) → m = m' := by
  have below : ∀ (m : Memory) {lo a : Nat}, a < lo → Memory.wfFrom lo m = true → memRead m a = resetByte a := by
    intro m
    induction m with
    | nil => intros; rfl
    | cons e rest ih =>
      intro lo a hlt hw
      obtain ⟨k, c⟩ := e
      simp only [Memory.wfFrom, Bool.and_eq_true, decide_eq_true_eq] at hw
      have hk : k ≠ a := by omega
      simpa [memRead, hk] using ih (show a < k + 1 by omega) hw.2
  induction m with
  | nil =>
    intro m' lo _ hw' hr
    cases m' with
    | nil => rfl
    | cons e rest =>
      obtain ⟨k, c⟩ := e
      have hk := hr k
      simp only [Memory.wfFrom, Bool.and_eq_true, decide_eq_true_eq] at hw'
      simp [memRead] at hk
      exact absurd hk.symm hw'.1.2
  | cons e rest ih =>
    obtain ⟨k, c⟩ := e
    intro m' lo hw hw' hr
    simp only [Memory.wfFrom, Bool.and_eq_true, decide_eq_true_eq] at hw
    cases m' with
    | nil =>
      have hk := hr k
      simp [memRead] at hk
      exact absurd hk hw.1.2
    | cons e' rest' =>
      obtain ⟨k', c'⟩ := e'
      simp only [Memory.wfFrom, Bool.and_eq_true, decide_eq_true_eq] at hw'
      have hkk : k = k' := by
        rcases Nat.lt_trichotomy k k' with h | h | h
        · have h1 := hr k
          have h2 : k' ≠ k := by omega
          simp [memRead, h2, below rest' (show k < k' + 1 by omega) hw'.2] at h1
          exact absurd h1 hw.1.2
        · exact h
        · have h1 := hr k'
          have h2 : k ≠ k' := by omega
          simp [memRead, h2, below rest (show k' < k + 1 by omega) hw.2] at h1
          exact absurd h1.symm hw'.1.2
      subst hkk
      have hcc : c = c' := by simpa [memRead] using hr k
      subst hcc
      have hrest : rest = rest' := ih hw.2 hw'.2 fun a => by
        by_cases ha : k = a
        · subst ha
          rw [below rest (Nat.lt_succ_self k) hw.2, below rest' (Nat.lt_succ_self k) hw'.2]
        · simpa [memRead, ha] using hr a
      rw [hrest]

end Sys2Proof.Machine
end

