-- ==== Sys2Proof/Laws/State.lean ====
section
/-! SUPPORT. One lemma per field per update of the state, each true by rfl. -/

namespace Sys2Proof.Machine

/-! ### writeV -/

@[simp] theorem writeV_V (s : State) (x : Nibble) (b : Byte) : (writeV s x b).V = s.V.set x.toNat b x.toNat_lt := rfl
@[simp] theorem writeV_pc (s : State) (x : Nibble) (b : Byte) : (writeV s x b).pc = s.pc := rfl
@[simp] theorem writeV_I (s : State) (x : Nibble) (b : Byte) : (writeV s x b).I = s.I := rfl
@[simp] theorem writeV_stack (s : State) (x : Nibble) (b : Byte) : (writeV s x b).stack = s.stack := rfl
@[simp] theorem writeV_sp (s : State) (x : Nibble) (b : Byte) : (writeV s x b).sp = s.sp := rfl
@[simp] theorem writeV_DT (s : State) (x : Nibble) (b : Byte) : (writeV s x b).DT = s.DT := rfl
@[simp] theorem writeV_ST (s : State) (x : Nibble) (b : Byte) : (writeV s x b).ST = s.ST := rfl
@[simp] theorem writeV_mem (s : State) (x : Nibble) (b : Byte) : (writeV s x b).mem = s.mem := rfl
@[simp] theorem writeV_fb (s : State) (x : Nibble) (b : Byte) : (writeV s x b).fb = s.fb := rfl
@[simp] theorem writeV_key (s : State) (x : Nibble) (b : Byte) : (writeV s x b).key = s.key := rfl
@[simp] theorem writeV_wait (s : State) (x : Nibble) (b : Byte) : (writeV s x b).wait = s.wait := rfl
@[simp] theorem writeV_waitX (s : State) (x : Nibble) (b : Byte) : (writeV s x b).waitX = s.waitX := rfl
@[simp] theorem writeV_err (s : State) (x : Nibble) (b : Byte) : (writeV s x b).err = s.err := rfl
@[simp] theorem writeV_errInfo (s : State) (x : Nibble) (b : Byte) : (writeV s x b).errInfo = s.errInfo := rfl
@[simp] theorem writeV_IR (s : State) (x : Nibble) (b : Byte) : (writeV s x b).IR = s.IR := rfl
@[simp] theorem writeV_diag (s : State) (x : Nibble) (b : Byte) : (writeV s x b).diag = s.diag := rfl
@[simp] theorem writeV_cfg (s : State) (x : Nibble) (b : Byte) : (writeV s x b).cfg = s.cfg := rfl
@[simp] theorem writeV_draws (s : State) (x : Nibble) (b : Byte) : (writeV s x b).draws = s.draws := rfl

/-! ### setPc -/

@[simp] theorem setPc_V (s : State) (w : Word) : (setPc s w).V = s.V := rfl
@[simp] theorem setPc_pc (s : State) (w : Word) : (setPc s w).pc = w := rfl
@[simp] theorem setPc_I (s : State) (w : Word) : (setPc s w).I = s.I := rfl
@[simp] theorem setPc_stack (s : State) (w : Word) : (setPc s w).stack = s.stack := rfl
@[simp] theorem setPc_sp (s : State) (w : Word) : (setPc s w).sp = s.sp := rfl
@[simp] theorem setPc_DT (s : State) (w : Word) : (setPc s w).DT = s.DT := rfl
@[simp] theorem setPc_ST (s : State) (w : Word) : (setPc s w).ST = s.ST := rfl
@[simp] theorem setPc_mem (s : State) (w : Word) : (setPc s w).mem = s.mem := rfl
@[simp] theorem setPc_fb (s : State) (w : Word) : (setPc s w).fb = s.fb := rfl
@[simp] theorem setPc_key (s : State) (w : Word) : (setPc s w).key = s.key := rfl
@[simp] theorem setPc_wait (s : State) (w : Word) : (setPc s w).wait = s.wait := rfl
@[simp] theorem setPc_waitX (s : State) (w : Word) : (setPc s w).waitX = s.waitX := rfl
@[simp] theorem setPc_err (s : State) (w : Word) : (setPc s w).err = s.err := rfl
@[simp] theorem setPc_errInfo (s : State) (w : Word) : (setPc s w).errInfo = s.errInfo := rfl
@[simp] theorem setPc_IR (s : State) (w : Word) : (setPc s w).IR = s.IR := rfl
@[simp] theorem setPc_diag (s : State) (w : Word) : (setPc s w).diag = s.diag := rfl
@[simp] theorem setPc_cfg (s : State) (w : Word) : (setPc s w).cfg = s.cfg := rfl
@[simp] theorem setPc_draws (s : State) (w : Word) : (setPc s w).draws = s.draws := rfl

/-! ### setI -/

@[simp] theorem setI_V (s : State) (w : Word) : (setI s w).V = s.V := rfl
@[simp] theorem setI_pc (s : State) (w : Word) : (setI s w).pc = s.pc := rfl
@[simp] theorem setI_I (s : State) (w : Word) : (setI s w).I = w := rfl
@[simp] theorem setI_stack (s : State) (w : Word) : (setI s w).stack = s.stack := rfl
@[simp] theorem setI_sp (s : State) (w : Word) : (setI s w).sp = s.sp := rfl
@[simp] theorem setI_DT (s : State) (w : Word) : (setI s w).DT = s.DT := rfl
@[simp] theorem setI_ST (s : State) (w : Word) : (setI s w).ST = s.ST := rfl
@[simp] theorem setI_mem (s : State) (w : Word) : (setI s w).mem = s.mem := rfl
@[simp] theorem setI_fb (s : State) (w : Word) : (setI s w).fb = s.fb := rfl
@[simp] theorem setI_key (s : State) (w : Word) : (setI s w).key = s.key := rfl
@[simp] theorem setI_wait (s : State) (w : Word) : (setI s w).wait = s.wait := rfl
@[simp] theorem setI_waitX (s : State) (w : Word) : (setI s w).waitX = s.waitX := rfl
@[simp] theorem setI_err (s : State) (w : Word) : (setI s w).err = s.err := rfl
@[simp] theorem setI_errInfo (s : State) (w : Word) : (setI s w).errInfo = s.errInfo := rfl
@[simp] theorem setI_IR (s : State) (w : Word) : (setI s w).IR = s.IR := rfl
@[simp] theorem setI_diag (s : State) (w : Word) : (setI s w).diag = s.diag := rfl
@[simp] theorem setI_cfg (s : State) (w : Word) : (setI s w).cfg = s.cfg := rfl
@[simp] theorem setI_draws (s : State) (w : Word) : (setI s w).draws = s.draws := rfl

/-! ### setDT -/

@[simp] theorem setDT_V (s : State) (b : Byte) : (setDT s b).V = s.V := rfl
@[simp] theorem setDT_pc (s : State) (b : Byte) : (setDT s b).pc = s.pc := rfl
@[simp] theorem setDT_I (s : State) (b : Byte) : (setDT s b).I = s.I := rfl
@[simp] theorem setDT_stack (s : State) (b : Byte) : (setDT s b).stack = s.stack := rfl
@[simp] theorem setDT_sp (s : State) (b : Byte) : (setDT s b).sp = s.sp := rfl
@[simp] theorem setDT_DT (s : State) (b : Byte) : (setDT s b).DT = b := rfl
@[simp] theorem setDT_ST (s : State) (b : Byte) : (setDT s b).ST = s.ST := rfl
@[simp] theorem setDT_mem (s : State) (b : Byte) : (setDT s b).mem = s.mem := rfl
@[simp] theorem setDT_fb (s : State) (b : Byte) : (setDT s b).fb = s.fb := rfl
@[simp] theorem setDT_key (s : State) (b : Byte) : (setDT s b).key = s.key := rfl
@[simp] theorem setDT_wait (s : State) (b : Byte) : (setDT s b).wait = s.wait := rfl
@[simp] theorem setDT_waitX (s : State) (b : Byte) : (setDT s b).waitX = s.waitX := rfl
@[simp] theorem setDT_err (s : State) (b : Byte) : (setDT s b).err = s.err := rfl
@[simp] theorem setDT_errInfo (s : State) (b : Byte) : (setDT s b).errInfo = s.errInfo := rfl
@[simp] theorem setDT_IR (s : State) (b : Byte) : (setDT s b).IR = s.IR := rfl
@[simp] theorem setDT_diag (s : State) (b : Byte) : (setDT s b).diag = s.diag := rfl
@[simp] theorem setDT_cfg (s : State) (b : Byte) : (setDT s b).cfg = s.cfg := rfl
@[simp] theorem setDT_draws (s : State) (b : Byte) : (setDT s b).draws = s.draws := rfl

/-! ### setST -/

@[simp] theorem setST_V (s : State) (b : Byte) : (setST s b).V = s.V := rfl
@[simp] theorem setST_pc (s : State) (b : Byte) : (setST s b).pc = s.pc := rfl
@[simp] theorem setST_I (s : State) (b : Byte) : (setST s b).I = s.I := rfl
@[simp] theorem setST_stack (s : State) (b : Byte) : (setST s b).stack = s.stack := rfl
@[simp] theorem setST_sp (s : State) (b : Byte) : (setST s b).sp = s.sp := rfl
@[simp] theorem setST_DT (s : State) (b : Byte) : (setST s b).DT = s.DT := rfl
@[simp] theorem setST_ST (s : State) (b : Byte) : (setST s b).ST = b := rfl
@[simp] theorem setST_mem (s : State) (b : Byte) : (setST s b).mem = s.mem := rfl
@[simp] theorem setST_fb (s : State) (b : Byte) : (setST s b).fb = s.fb := rfl
@[simp] theorem setST_key (s : State) (b : Byte) : (setST s b).key = s.key := rfl
@[simp] theorem setST_wait (s : State) (b : Byte) : (setST s b).wait = s.wait := rfl
@[simp] theorem setST_waitX (s : State) (b : Byte) : (setST s b).waitX = s.waitX := rfl
@[simp] theorem setST_err (s : State) (b : Byte) : (setST s b).err = s.err := rfl
@[simp] theorem setST_errInfo (s : State) (b : Byte) : (setST s b).errInfo = s.errInfo := rfl
@[simp] theorem setST_IR (s : State) (b : Byte) : (setST s b).IR = s.IR := rfl
@[simp] theorem setST_diag (s : State) (b : Byte) : (setST s b).diag = s.diag := rfl
@[simp] theorem setST_cfg (s : State) (b : Byte) : (setST s b).cfg = s.cfg := rfl
@[simp] theorem setST_draws (s : State) (b : Byte) : (setST s b).draws = s.draws := rfl

/-! ### setMem -/

@[simp] theorem setMem_V (s : State) (m : Memory) : (setMem s m).V = s.V := rfl
@[simp] theorem setMem_pc (s : State) (m : Memory) : (setMem s m).pc = s.pc := rfl
@[simp] theorem setMem_I (s : State) (m : Memory) : (setMem s m).I = s.I := rfl
@[simp] theorem setMem_stack (s : State) (m : Memory) : (setMem s m).stack = s.stack := rfl
@[simp] theorem setMem_sp (s : State) (m : Memory) : (setMem s m).sp = s.sp := rfl
@[simp] theorem setMem_DT (s : State) (m : Memory) : (setMem s m).DT = s.DT := rfl
@[simp] theorem setMem_ST (s : State) (m : Memory) : (setMem s m).ST = s.ST := rfl
@[simp] theorem setMem_mem (s : State) (m : Memory) : (setMem s m).mem = m := rfl
@[simp] theorem setMem_fb (s : State) (m : Memory) : (setMem s m).fb = s.fb := rfl
@[simp] theorem setMem_key (s : State) (m : Memory) : (setMem s m).key = s.key := rfl
@[simp] theorem setMem_wait (s : State) (m : Memory) : (setMem s m).wait = s.wait := rfl
@[simp] theorem setMem_waitX (s : State) (m : Memory) : (setMem s m).waitX = s.waitX := rfl
@[simp] theorem setMem_err (s : State) (m : Memory) : (setMem s m).err = s.err := rfl
@[simp] theorem setMem_errInfo (s : State) (m : Memory) : (setMem s m).errInfo = s.errInfo := rfl
@[simp] theorem setMem_IR (s : State) (m : Memory) : (setMem s m).IR = s.IR := rfl
@[simp] theorem setMem_diag (s : State) (m : Memory) : (setMem s m).diag = s.diag := rfl
@[simp] theorem setMem_cfg (s : State) (m : Memory) : (setMem s m).cfg = s.cfg := rfl
@[simp] theorem setMem_draws (s : State) (m : Memory) : (setMem s m).draws = s.draws := rfl

/-! ### setFb -/

@[simp] theorem setFb_V (s : State) (f : Framebuffer) : (setFb s f).V = s.V := rfl
@[simp] theorem setFb_pc (s : State) (f : Framebuffer) : (setFb s f).pc = s.pc := rfl
@[simp] theorem setFb_I (s : State) (f : Framebuffer) : (setFb s f).I = s.I := rfl
@[simp] theorem setFb_stack (s : State) (f : Framebuffer) : (setFb s f).stack = s.stack := rfl
@[simp] theorem setFb_sp (s : State) (f : Framebuffer) : (setFb s f).sp = s.sp := rfl
@[simp] theorem setFb_DT (s : State) (f : Framebuffer) : (setFb s f).DT = s.DT := rfl
@[simp] theorem setFb_ST (s : State) (f : Framebuffer) : (setFb s f).ST = s.ST := rfl
@[simp] theorem setFb_mem (s : State) (f : Framebuffer) : (setFb s f).mem = s.mem := rfl
@[simp] theorem setFb_fb (s : State) (f : Framebuffer) : (setFb s f).fb = f := rfl
@[simp] theorem setFb_key (s : State) (f : Framebuffer) : (setFb s f).key = s.key := rfl
@[simp] theorem setFb_wait (s : State) (f : Framebuffer) : (setFb s f).wait = s.wait := rfl
@[simp] theorem setFb_waitX (s : State) (f : Framebuffer) : (setFb s f).waitX = s.waitX := rfl
@[simp] theorem setFb_err (s : State) (f : Framebuffer) : (setFb s f).err = s.err := rfl
@[simp] theorem setFb_errInfo (s : State) (f : Framebuffer) : (setFb s f).errInfo = s.errInfo := rfl
@[simp] theorem setFb_IR (s : State) (f : Framebuffer) : (setFb s f).IR = s.IR := rfl
@[simp] theorem setFb_diag (s : State) (f : Framebuffer) : (setFb s f).diag = s.diag := rfl
@[simp] theorem setFb_cfg (s : State) (f : Framebuffer) : (setFb s f).cfg = s.cfg := rfl
@[simp] theorem setFb_draws (s : State) (f : Framebuffer) : (setFb s f).draws = s.draws := rfl

/-! ### loadV -/

@[simp] theorem loadV_V (s : State) (x : Nibble) (a : Nat) : (loadV s x a).V = Vector.ofFn fun k : Fin 16 => if k.val ≤ x.toNat then memRead s.mem (a + k.val) else s.V[k.val] := rfl
@[simp] theorem loadV_pc (s : State) (x : Nibble) (a : Nat) : (loadV s x a).pc = s.pc := rfl
@[simp] theorem loadV_I (s : State) (x : Nibble) (a : Nat) : (loadV s x a).I = s.I := rfl
@[simp] theorem loadV_stack (s : State) (x : Nibble) (a : Nat) : (loadV s x a).stack = s.stack := rfl
@[simp] theorem loadV_sp (s : State) (x : Nibble) (a : Nat) : (loadV s x a).sp = s.sp := rfl
@[simp] theorem loadV_DT (s : State) (x : Nibble) (a : Nat) : (loadV s x a).DT = s.DT := rfl
@[simp] theorem loadV_ST (s : State) (x : Nibble) (a : Nat) : (loadV s x a).ST = s.ST := rfl
@[simp] theorem loadV_mem (s : State) (x : Nibble) (a : Nat) : (loadV s x a).mem = s.mem := rfl
@[simp] theorem loadV_fb (s : State) (x : Nibble) (a : Nat) : (loadV s x a).fb = s.fb := rfl
@[simp] theorem loadV_key (s : State) (x : Nibble) (a : Nat) : (loadV s x a).key = s.key := rfl
@[simp] theorem loadV_wait (s : State) (x : Nibble) (a : Nat) : (loadV s x a).wait = s.wait := rfl
@[simp] theorem loadV_waitX (s : State) (x : Nibble) (a : Nat) : (loadV s x a).waitX = s.waitX := rfl
@[simp] theorem loadV_err (s : State) (x : Nibble) (a : Nat) : (loadV s x a).err = s.err := rfl
@[simp] theorem loadV_errInfo (s : State) (x : Nibble) (a : Nat) : (loadV s x a).errInfo = s.errInfo := rfl
@[simp] theorem loadV_IR (s : State) (x : Nibble) (a : Nat) : (loadV s x a).IR = s.IR := rfl
@[simp] theorem loadV_diag (s : State) (x : Nibble) (a : Nat) : (loadV s x a).diag = s.diag := rfl
@[simp] theorem loadV_cfg (s : State) (x : Nibble) (a : Nat) : (loadV s x a).cfg = s.cfg := rfl
@[simp] theorem loadV_draws (s : State) (x : Nibble) (a : Nat) : (loadV s x a).draws = s.draws := rfl

/-! ### draw8 -/

@[simp] theorem draw8_V (s : State) : ((draw8 s).2).V = s.V := rfl
@[simp] theorem draw8_pc (s : State) : ((draw8 s).2).pc = s.pc := rfl
@[simp] theorem draw8_I (s : State) : ((draw8 s).2).I = s.I := rfl
@[simp] theorem draw8_stack (s : State) : ((draw8 s).2).stack = s.stack := rfl
@[simp] theorem draw8_sp (s : State) : ((draw8 s).2).sp = s.sp := rfl
@[simp] theorem draw8_DT (s : State) : ((draw8 s).2).DT = s.DT := rfl
@[simp] theorem draw8_ST (s : State) : ((draw8 s).2).ST = s.ST := rfl
@[simp] theorem draw8_mem (s : State) : ((draw8 s).2).mem = s.mem := rfl
@[simp] theorem draw8_fb (s : State) : ((draw8 s).2).fb = s.fb := rfl
@[simp] theorem draw8_key (s : State) : ((draw8 s).2).key = s.key := rfl
@[simp] theorem draw8_wait (s : State) : ((draw8 s).2).wait = s.wait := rfl
@[simp] theorem draw8_waitX (s : State) : ((draw8 s).2).waitX = s.waitX := rfl
@[simp] theorem draw8_err (s : State) : ((draw8 s).2).err = s.err := rfl
@[simp] theorem draw8_errInfo (s : State) : ((draw8 s).2).errInfo = s.errInfo := rfl
@[simp] theorem draw8_IR (s : State) : ((draw8 s).2).IR = s.IR := rfl
@[simp] theorem draw8_diag (s : State) : ((draw8 s).2).diag = s.diag := rfl
@[simp] theorem draw8_cfg (s : State) : ((draw8 s).2).cfg = s.cfg := rfl
@[simp] theorem draw8_draws (s : State) : ((draw8 s).2).draws = s.draws + 1 := rfl

/-! ### pushStack -/

@[simp] theorem pushStack_V (s : State) (w : Word) (h : s.sp.val < 16) : (pushStack s w h).V = s.V := rfl
@[simp] theorem pushStack_pc (s : State) (w : Word) (h : s.sp.val < 16) : (pushStack s w h).pc = s.pc := rfl
@[simp] theorem pushStack_I (s : State) (w : Word) (h : s.sp.val < 16) : (pushStack s w h).I = s.I := rfl
@[simp] theorem pushStack_stack (s : State) (w : Word) (h : s.sp.val < 16) : (pushStack s w h).stack = s.stack.set s.sp.val w h := rfl
@[simp] theorem pushStack_sp (s : State) (w : Word) (h : s.sp.val < 16) : (pushStack s w h).sp = ⟨s.sp.val + 1, by omega⟩ := rfl
@[simp] theorem pushStack_DT (s : State) (w : Word) (h : s.sp.val < 16) : (pushStack s w h).DT = s.DT := rfl
@[simp] theorem pushStack_ST (s : State) (w : Word) (h : s.sp.val < 16) : (pushStack s w h).ST = s.ST := rfl
@[simp] theorem pushStack_mem (s : State) (w : Word) (h : s.sp.val < 16) : (pushStack s w h).mem = s.mem := rfl
@[simp] theorem pushStack_fb (s : State) (w : Word) (h : s.sp.val < 16) : (pushStack s w h).fb = s.fb := rfl
@[simp] theorem pushStack_key (s : State) (w : Word) (h : s.sp.val < 16) : (pushStack s w h).key = s.key := rfl
@[simp] theorem pushStack_wait (s : State) (w : Word) (h : s.sp.val < 16) : (pushStack s w h).wait = s.wait := rfl
@[simp] theorem pushStack_waitX (s : State) (w : Word) (h : s.sp.val < 16) : (pushStack s w h).waitX = s.waitX := rfl
@[simp] theorem pushStack_err (s : State) (w : Word) (h : s.sp.val < 16) : (pushStack s w h).err = s.err := rfl
@[simp] theorem pushStack_errInfo (s : State) (w : Word) (h : s.sp.val < 16) : (pushStack s w h).errInfo = s.errInfo := rfl
@[simp] theorem pushStack_IR (s : State) (w : Word) (h : s.sp.val < 16) : (pushStack s w h).IR = s.IR := rfl
@[simp] theorem pushStack_diag (s : State) (w : Word) (h : s.sp.val < 16) : (pushStack s w h).diag = s.diag := rfl
@[simp] theorem pushStack_cfg (s : State) (w : Word) (h : s.sp.val < 16) : (pushStack s w h).cfg = s.cfg := rfl
@[simp] theorem pushStack_draws (s : State) (w : Word) (h : s.sp.val < 16) : (pushStack s w h).draws = s.draws := rfl

/-! ### popStack -/

@[simp] theorem popStack_V (s : State) (h : 0 < s.sp.val) : ((popStack s h).2).V = s.V := rfl
@[simp] theorem popStack_pc (s : State) (h : 0 < s.sp.val) : ((popStack s h).2).pc = s.pc := rfl
@[simp] theorem popStack_I (s : State) (h : 0 < s.sp.val) : ((popStack s h).2).I = s.I := rfl
@[simp] theorem popStack_stack (s : State) (h : 0 < s.sp.val) : ((popStack s h).2).stack = s.stack := rfl
@[simp] theorem popStack_sp (s : State) (h : 0 < s.sp.val) : ((popStack s h).2).sp = ⟨s.sp.val - 1, by omega⟩ := rfl
@[simp] theorem popStack_DT (s : State) (h : 0 < s.sp.val) : ((popStack s h).2).DT = s.DT := rfl
@[simp] theorem popStack_ST (s : State) (h : 0 < s.sp.val) : ((popStack s h).2).ST = s.ST := rfl
@[simp] theorem popStack_mem (s : State) (h : 0 < s.sp.val) : ((popStack s h).2).mem = s.mem := rfl
@[simp] theorem popStack_fb (s : State) (h : 0 < s.sp.val) : ((popStack s h).2).fb = s.fb := rfl
@[simp] theorem popStack_key (s : State) (h : 0 < s.sp.val) : ((popStack s h).2).key = s.key := rfl
@[simp] theorem popStack_wait (s : State) (h : 0 < s.sp.val) : ((popStack s h).2).wait = s.wait := rfl
@[simp] theorem popStack_waitX (s : State) (h : 0 < s.sp.val) : ((popStack s h).2).waitX = s.waitX := rfl
@[simp] theorem popStack_err (s : State) (h : 0 < s.sp.val) : ((popStack s h).2).err = s.err := rfl
@[simp] theorem popStack_errInfo (s : State) (h : 0 < s.sp.val) : ((popStack s h).2).errInfo = s.errInfo := rfl
@[simp] theorem popStack_IR (s : State) (h : 0 < s.sp.val) : ((popStack s h).2).IR = s.IR := rfl
@[simp] theorem popStack_diag (s : State) (h : 0 < s.sp.val) : ((popStack s h).2).diag = s.diag := rfl
@[simp] theorem popStack_cfg (s : State) (h : 0 < s.sp.val) : ((popStack s h).2).cfg = s.cfg := rfl
@[simp] theorem popStack_draws (s : State) (h : 0 < s.sp.val) : ((popStack s h).2).draws = s.draws := rfl

/-! ### raise -/

@[simp] theorem raise_V (s : State) (e : ErrCode) (w : Word) : (raise s e w).V = s.V := rfl
@[simp] theorem raise_pc (s : State) (e : ErrCode) (w : Word) : (raise s e w).pc = s.pc := rfl
@[simp] theorem raise_I (s : State) (e : ErrCode) (w : Word) : (raise s e w).I = s.I := rfl
@[simp] theorem raise_stack (s : State) (e : ErrCode) (w : Word) : (raise s e w).stack = s.stack := rfl
@[simp] theorem raise_sp (s : State) (e : ErrCode) (w : Word) : (raise s e w).sp = s.sp := rfl
@[simp] theorem raise_DT (s : State) (e : ErrCode) (w : Word) : (raise s e w).DT = s.DT := rfl
@[simp] theorem raise_ST (s : State) (e : ErrCode) (w : Word) : (raise s e w).ST = s.ST := rfl
@[simp] theorem raise_mem (s : State) (e : ErrCode) (w : Word) : (raise s e w).mem = s.mem := rfl
@[simp] theorem raise_fb (s : State) (e : ErrCode) (w : Word) : (raise s e w).fb = s.fb := rfl
@[simp] theorem raise_key (s : State) (e : ErrCode) (w : Word) : (raise s e w).key = s.key := rfl
@[simp] theorem raise_wait (s : State) (e : ErrCode) (w : Word) : (raise s e w).wait = s.wait := rfl
@[simp] theorem raise_waitX (s : State) (e : ErrCode) (w : Word) : (raise s e w).waitX = s.waitX := rfl
@[simp] theorem raise_err (s : State) (e : ErrCode) (w : Word) : (raise s e w).err = e := rfl
@[simp] theorem raise_errInfo (s : State) (e : ErrCode) (w : Word) : (raise s e w).errInfo = w := rfl
@[simp] theorem raise_IR (s : State) (e : ErrCode) (w : Word) : (raise s e w).IR = s.IR := rfl
@[simp] theorem raise_diag (s : State) (e : ErrCode) (w : Word) : (raise s e w).diag = s.diag := rfl
@[simp] theorem raise_cfg (s : State) (e : ErrCode) (w : Word) : (raise s e w).cfg = s.cfg := rfl
@[simp] theorem raise_draws (s : State) (e : ErrCode) (w : Word) : (raise s e w).draws = s.draws := rfl

/-! ### blockOnKey -/

@[simp] theorem blockOnKey_V (s : State) (x : Nibble) : (blockOnKey s x).V = s.V := rfl
@[simp] theorem blockOnKey_pc (s : State) (x : Nibble) : (blockOnKey s x).pc = s.pc := rfl
@[simp] theorem blockOnKey_I (s : State) (x : Nibble) : (blockOnKey s x).I = s.I := rfl
@[simp] theorem blockOnKey_stack (s : State) (x : Nibble) : (blockOnKey s x).stack = s.stack := rfl
@[simp] theorem blockOnKey_sp (s : State) (x : Nibble) : (blockOnKey s x).sp = s.sp := rfl
@[simp] theorem blockOnKey_DT (s : State) (x : Nibble) : (blockOnKey s x).DT = s.DT := rfl
@[simp] theorem blockOnKey_ST (s : State) (x : Nibble) : (blockOnKey s x).ST = s.ST := rfl
@[simp] theorem blockOnKey_mem (s : State) (x : Nibble) : (blockOnKey s x).mem = s.mem := rfl
@[simp] theorem blockOnKey_fb (s : State) (x : Nibble) : (blockOnKey s x).fb = s.fb := rfl
@[simp] theorem blockOnKey_key (s : State) (x : Nibble) : (blockOnKey s x).key = s.key := rfl
@[simp] theorem blockOnKey_wait (s : State) (x : Nibble) : (blockOnKey s x).wait = true := rfl
@[simp] theorem blockOnKey_waitX (s : State) (x : Nibble) : (blockOnKey s x).waitX = x := rfl
@[simp] theorem blockOnKey_err (s : State) (x : Nibble) : (blockOnKey s x).err = s.err := rfl
@[simp] theorem blockOnKey_errInfo (s : State) (x : Nibble) : (blockOnKey s x).errInfo = s.errInfo := rfl
@[simp] theorem blockOnKey_IR (s : State) (x : Nibble) : (blockOnKey s x).IR = s.IR := rfl
@[simp] theorem blockOnKey_diag (s : State) (x : Nibble) : (blockOnKey s x).diag = s.diag := rfl
@[simp] theorem blockOnKey_cfg (s : State) (x : Nibble) : (blockOnKey s x).cfg = s.cfg := rfl
@[simp] theorem blockOnKey_draws (s : State) (x : Nibble) : (blockOnKey s x).draws = s.draws := rfl

/-! ### unblock -/

@[simp] theorem unblock_V (s : State) : (unblock s).V = s.V := rfl
@[simp] theorem unblock_pc (s : State) : (unblock s).pc = s.pc := rfl
@[simp] theorem unblock_I (s : State) : (unblock s).I = s.I := rfl
@[simp] theorem unblock_stack (s : State) : (unblock s).stack = s.stack := rfl
@[simp] theorem unblock_sp (s : State) : (unblock s).sp = s.sp := rfl
@[simp] theorem unblock_DT (s : State) : (unblock s).DT = s.DT := rfl
@[simp] theorem unblock_ST (s : State) : (unblock s).ST = s.ST := rfl
@[simp] theorem unblock_mem (s : State) : (unblock s).mem = s.mem := rfl
@[simp] theorem unblock_fb (s : State) : (unblock s).fb = s.fb := rfl
@[simp] theorem unblock_key (s : State) : (unblock s).key = s.key := rfl
@[simp] theorem unblock_wait (s : State) : (unblock s).wait = false := rfl
@[simp] theorem unblock_waitX (s : State) : (unblock s).waitX = s.waitX := rfl
@[simp] theorem unblock_err (s : State) : (unblock s).err = s.err := rfl
@[simp] theorem unblock_errInfo (s : State) : (unblock s).errInfo = s.errInfo := rfl
@[simp] theorem unblock_IR (s : State) : (unblock s).IR = s.IR := rfl
@[simp] theorem unblock_diag (s : State) : (unblock s).diag = s.diag := rfl
@[simp] theorem unblock_cfg (s : State) : (unblock s).cfg = s.cfg := rfl
@[simp] theorem unblock_draws (s : State) : (unblock s).draws = s.draws := rfl

/-! ### afterFetch -/

@[simp] theorem afterFetch_V (s : State) : (afterFetch s).V = s.V := rfl
@[simp] theorem afterFetch_pc (s : State) : (afterFetch s).pc = s.pc + 2 := rfl
@[simp] theorem afterFetch_I (s : State) : (afterFetch s).I = s.I := rfl
@[simp] theorem afterFetch_stack (s : State) : (afterFetch s).stack = s.stack := rfl
@[simp] theorem afterFetch_sp (s : State) : (afterFetch s).sp = s.sp := rfl
@[simp] theorem afterFetch_DT (s : State) : (afterFetch s).DT = s.DT := rfl
@[simp] theorem afterFetch_ST (s : State) : (afterFetch s).ST = s.ST := rfl
@[simp] theorem afterFetch_mem (s : State) : (afterFetch s).mem = s.mem := rfl
@[simp] theorem afterFetch_fb (s : State) : (afterFetch s).fb = s.fb := rfl
@[simp] theorem afterFetch_key (s : State) : (afterFetch s).key = s.key := rfl
@[simp] theorem afterFetch_wait (s : State) : (afterFetch s).wait = s.wait := rfl
@[simp] theorem afterFetch_waitX (s : State) : (afterFetch s).waitX = s.waitX := rfl
@[simp] theorem afterFetch_err (s : State) : (afterFetch s).err = s.err := rfl
@[simp] theorem afterFetch_errInfo (s : State) : (afterFetch s).errInfo = s.errInfo := rfl
@[simp] theorem afterFetch_IR (s : State) : (afterFetch s).IR = fetchWord s := rfl
@[simp] theorem afterFetch_diag (s : State) : (afterFetch s).diag = s.diag := rfl
@[simp] theorem afterFetch_cfg (s : State) : (afterFetch s).cfg = s.cfg := rfl
@[simp] theorem afterFetch_draws (s : State) : (afterFetch s).draws = s.draws := rfl

/-! ### recordUnrecognized -/

@[simp] theorem recordUnrecognized_V (s : State) (w : Word) : (recordUnrecognized s w).V = s.V := rfl
@[simp] theorem recordUnrecognized_pc (s : State) (w : Word) : (recordUnrecognized s w).pc = s.pc := rfl
@[simp] theorem recordUnrecognized_I (s : State) (w : Word) : (recordUnrecognized s w).I = s.I := rfl
@[simp] theorem recordUnrecognized_stack (s : State) (w : Word) : (recordUnrecognized s w).stack = s.stack := rfl
@[simp] theorem recordUnrecognized_sp (s : State) (w : Word) : (recordUnrecognized s w).sp = s.sp := rfl
@[simp] theorem recordUnrecognized_DT (s : State) (w : Word) : (recordUnrecognized s w).DT = s.DT := rfl
@[simp] theorem recordUnrecognized_ST (s : State) (w : Word) : (recordUnrecognized s w).ST = s.ST := rfl
@[simp] theorem recordUnrecognized_mem (s : State) (w : Word) : (recordUnrecognized s w).mem = s.mem := rfl
@[simp] theorem recordUnrecognized_fb (s : State) (w : Word) : (recordUnrecognized s w).fb = s.fb := rfl
@[simp] theorem recordUnrecognized_key (s : State) (w : Word) : (recordUnrecognized s w).key = s.key := rfl
@[simp] theorem recordUnrecognized_wait (s : State) (w : Word) : (recordUnrecognized s w).wait = s.wait := rfl
@[simp] theorem recordUnrecognized_waitX (s : State) (w : Word) : (recordUnrecognized s w).waitX = s.waitX := rfl
@[simp] theorem recordUnrecognized_err (s : State) (w : Word) : (recordUnrecognized s w).err = s.err := rfl
@[simp] theorem recordUnrecognized_errInfo (s : State) (w : Word) : (recordUnrecognized s w).errInfo = s.errInfo := rfl
@[simp] theorem recordUnrecognized_IR (s : State) (w : Word) : (recordUnrecognized s w).IR = s.IR := rfl
@[simp] theorem recordUnrecognized_diag (s : State) (w : Word) : (recordUnrecognized s w).diag = s.diag ++ [w] := rfl
@[simp] theorem recordUnrecognized_cfg (s : State) (w : Word) : (recordUnrecognized s w).cfg = s.cfg := rfl
@[simp] theorem recordUnrecognized_draws (s : State) (w : Word) : (recordUnrecognized s w).draws = s.draws := rfl

/-! ### setKey -/

@[simp] theorem setKey_V (k : Nibble) (p : Bool) (s : State) : (setKey k p s).V = s.V := rfl
@[simp] theorem setKey_pc (k : Nibble) (p : Bool) (s : State) : (setKey k p s).pc = s.pc := rfl
@[simp] theorem setKey_I (k : Nibble) (p : Bool) (s : State) : (setKey k p s).I = s.I := rfl
@[simp] theorem setKey_stack (k : Nibble) (p : Bool) (s : State) : (setKey k p s).stack = s.stack := rfl
@[simp] theorem setKey_sp (k : Nibble) (p : Bool) (s : State) : (setKey k p s).sp = s.sp := rfl
@[simp] theorem setKey_DT (k : Nibble) (p : Bool) (s : State) : (setKey k p s).DT = s.DT := rfl
@[simp] theorem setKey_ST (k : Nibble) (p : Bool) (s : State) : (setKey k p s).ST = s.ST := rfl
@[simp] theorem setKey_mem (k : Nibble) (p : Bool) (s : State) : (setKey k p s).mem = s.mem := rfl
@[simp] theorem setKey_fb (k : Nibble) (p : Bool) (s : State) : (setKey k p s).fb = s.fb := rfl
@[simp] theorem setKey_key (k : Nibble) (p : Bool) (s : State) : (setKey k p s).key = s.key.set k.toNat p k.toNat_lt := rfl
@[simp] theorem setKey_wait (k : Nibble) (p : Bool) (s : State) : (setKey k p s).wait = s.wait := rfl
@[simp] theorem setKey_waitX (k : Nibble) (p : Bool) (s : State) : (setKey k p s).waitX = s.waitX := rfl
@[simp] theorem setKey_err (k : Nibble) (p : Bool) (s : State) : (setKey k p s).err = s.err := rfl
@[simp] theorem setKey_errInfo (k : Nibble) (p : Bool) (s : State) : (setKey k p s).errInfo = s.errInfo := rfl
@[simp] theorem setKey_IR (k : Nibble) (p : Bool) (s : State) : (setKey k p s).IR = s.IR := rfl
@[simp] theorem setKey_diag (k : Nibble) (p : Bool) (s : State) : (setKey k p s).diag = s.diag := rfl
@[simp] theorem setKey_cfg (k : Nibble) (p : Bool) (s : State) : (setKey k p s).cfg = s.cfg := rfl
@[simp] theorem setKey_draws (k : Nibble) (p : Bool) (s : State) : (setKey k p s).draws = s.draws := rfl

@[simp] theorem draw8_byte (s : State) : (draw8 s).1 = Config.drawByte s.draws := rfl

@[simp] theorem popStack_word (s : State) (h : 0 < s.sp.val) :
    (popStack s h).1 = s.stack[s.sp.val - 1]'(by omega) := rfl

/-! ### skipIf: everything but pc -/

@[simp] theorem skipIf_V (c : Bool) (s : State) : (skipIf c s).V = s.V := by cases c <;> rfl
@[simp] theorem skipIf_pc (c : Bool) (s : State) : (skipIf c s).pc = if c then s.pc + 2 else s.pc := by
  cases c <;> rfl
@[simp] theorem skipIf_I (c : Bool) (s : State) : (skipIf c s).I = s.I := by cases c <;> rfl
@[simp] theorem skipIf_stack (c : Bool) (s : State) : (skipIf c s).stack = s.stack := by cases c <;> rfl
@[simp] theorem skipIf_sp (c : Bool) (s : State) : (skipIf c s).sp = s.sp := by cases c <;> rfl
@[simp] theorem skipIf_DT (c : Bool) (s : State) : (skipIf c s).DT = s.DT := by cases c <;> rfl
@[simp] theorem skipIf_ST (c : Bool) (s : State) : (skipIf c s).ST = s.ST := by cases c <;> rfl
@[simp] theorem skipIf_mem (c : Bool) (s : State) : (skipIf c s).mem = s.mem := by cases c <;> rfl
@[simp] theorem skipIf_fb (c : Bool) (s : State) : (skipIf c s).fb = s.fb := by cases c <;> rfl
@[simp] theorem skipIf_key (c : Bool) (s : State) : (skipIf c s).key = s.key := by cases c <;> rfl
@[simp] theorem skipIf_wait (c : Bool) (s : State) : (skipIf c s).wait = s.wait := by cases c <;> rfl
@[simp] theorem skipIf_waitX (c : Bool) (s : State) : (skipIf c s).waitX = s.waitX := by cases c <;> rfl
@[simp] theorem skipIf_err (c : Bool) (s : State) : (skipIf c s).err = s.err := by cases c <;> rfl
@[simp] theorem skipIf_errInfo (c : Bool) (s : State) : (skipIf c s).errInfo = s.errInfo := by cases c <;> rfl
@[simp] theorem skipIf_IR (c : Bool) (s : State) : (skipIf c s).IR = s.IR := by cases c <;> rfl
@[simp] theorem skipIf_diag (c : Bool) (s : State) : (skipIf c s).diag = s.diag := by cases c <;> rfl
@[simp] theorem skipIf_cfg (c : Bool) (s : State) : (skipIf c s).cfg = s.cfg := by cases c <;> rfl
@[simp] theorem skipIf_draws (c : Bool) (s : State) : (skipIf c s).draws = s.draws := by cases c <;> rfl

end Sys2Proof.Machine
end

