-- ==== Sys2Proof/Laws/Ops.lean ====
section
/-! SUPPORT. One specification lemma for each shared operation. -/

namespace Sys2Proof.Machine

/-! ### Registers -/

theorem readV_eq (s : State) (x : Nibble) : readV s x = s.V[x.toNat]'x.toNat_lt := rfl

/-- Reading a register after writing one (R10). -/
@[simp] theorem readV_writeV (s : State) (x y : Nibble) (b : Byte) :
    readV (writeV s x b) y = if y = x then b else readV s y := by
  simp only [readV, writeV, Vector.getElem_set, BitVec.toNat_inj, eq_comm]

@[simp] theorem readV_setPc (s : State) (w : Word) (x : Nibble) : readV (setPc s w) x = readV s x := rfl
@[simp] theorem readV_setI (s : State) (w : Word) (x : Nibble) : readV (setI s w) x = readV s x := rfl
@[simp] theorem readV_setDT (s : State) (b : Byte) (x : Nibble) : readV (setDT s b) x = readV s x := rfl
@[simp] theorem readV_setST (s : State) (b : Byte) (x : Nibble) : readV (setST s b) x = readV s x := rfl
@[simp] theorem readV_setMem (s : State) (m : Memory) (x : Nibble) : readV (setMem s m) x = readV s x := rfl
@[simp] theorem readV_setFb (s : State) (f : Framebuffer) (x : Nibble) : readV (setFb s f) x = readV s x := rfl
@[simp] theorem readV_draw8 (s : State) (x : Nibble) : readV (draw8 s).2 x = readV s x := rfl
@[simp] theorem readV_pushStack (s : State) (w : Word) (h) (x : Nibble) :
    readV (pushStack s w h) x = readV s x := rfl
@[simp] theorem readV_popStack (s : State) (h) (x : Nibble) : readV (popStack s h).2 x = readV s x := rfl
@[simp] theorem readV_raise (s : State) (e : ErrCode) (w : Word) (x : Nibble) :
    readV (raise s e w) x = readV s x := rfl
@[simp] theorem readV_blockOnKey (s : State) (y x : Nibble) : readV (blockOnKey s y) x = readV s x := rfl
@[simp] theorem readV_unblock (s : State) (x : Nibble) : readV (unblock s) x = readV s x := rfl
@[simp] theorem readV_afterFetch (s : State) (x : Nibble) : readV (afterFetch s) x = readV s x := rfl
@[simp] theorem readV_recordUnrecognized (s : State) (w : Word) (x : Nibble) :
    readV (recordUnrecognized s w) x = readV s x := rfl
@[simp] theorem readV_setKey (k : Nibble) (p : Bool) (s : State) (x : Nibble) :
    readV (setKey k p s) x = readV s x := rfl
@[simp] theorem readV_skipIf (c : Bool) (s : State) (x : Nibble) : readV (skipIf c s) x = readV s x := by
  cases c <;> rfl

/-- A block load: registers up to V`x` from memory, the others as before (R145). -/
@[simp] theorem readV_loadV (s : State) (x y : Nibble) (a : Nat) :
    readV (loadV s x a) y = if y.toNat ≤ x.toNat then memRead s.mem (a + y.toNat) else readV s y := by
  simp [readV, loadV]

/-- The registers that LD [I],VX stores are V0 to VX, in order (R144). -/
@[simp] theorem length_registersUpTo (s : State) (x : Nibble) : (registersUpTo s x).length = x.toNat + 1 := by
  have := x.toNat_lt
  simp [registersUpTo]
  omega

theorem getElem_registersUpTo (s : State) (x y : Nibble) (h : y.toNat < (registersUpTo s x).length) :
    (registersUpTo s x)[y.toNat] = readV s y := by
  simp [registersUpTo, readV]

/-! ### Keypad -/

@[simp] theorem keyPressed_setKey (j k : Nibble) (p : Bool) (s : State) :
    keyPressed (setKey j p s) k = if k = j then p else keyPressed s k := by
  simp only [keyPressed, setKey, Vector.getElem_set, BitVec.toNat_inj, eq_comm]

@[simp] theorem keyPressed_writeV (s : State) (x : Nibble) (b : Byte) (k : Nibble) :
    keyPressed (writeV s x b) k = keyPressed s k := rfl
@[simp] theorem keyPressed_unblock (s : State) (k : Nibble) : keyPressed (unblock s) k = keyPressed s k := rfl
@[simp] theorem keyPressed_afterFetch (s : State) (k : Nibble) :
    keyPressed (afterFetch s) k = keyPressed s k := rfl

/-- The 16 key indexes in rising order. -/
theorem keyOrder (k : Nibble) :
    (List.range 16).map (BitVec.ofNat 4) =
      (List.range k.toNat).map (BitVec.ofNat 4) ++ k :: ((List.range (15 - k.toNat)).map
        fun j => BitVec.ofNat 4 (k.toNat + 1 + j)) := by
  revert k
  decide

/-- `lowestKey` finds a key exactly when it is pressed and no smaller one is (R81, R173). -/
theorem lowestKey_eq_some (s : State) (k : Nibble) :
    lowestKey s = some k ↔ keyPressed s k = true ∧ ∀ j : Nibble, j.toNat < k.toNat → keyPressed s j = false := by
  constructor
  · intro h
    unfold lowestKey at h
    have hk : keyPressed s k = true := List.find?_some h
    refine ⟨hk, fun j hj => ?_⟩
    by_contra hn
    have hn : keyPressed s j = true := by simpa using hn
    rw [keyOrder j, List.find?_append, List.find?_cons_of_pos hn] at h
    cases hf : List.find? (keyPressed s) ((List.range j.toNat).map (BitVec.ofNat 4)) with
    | none =>
      rw [hf] at h
      simp at h
      subst h
      omega
    | some l =>
      rw [hf] at h
      simp at h
      subst h
      have hm := List.mem_of_find?_eq_some hf
      simp only [List.mem_map, List.mem_range] at hm
      obtain ⟨n, hn1, hn2⟩ := hm
      have hj16 := j.toNat_lt
      have : l.toNat = n := by rw [← hn2]; simp; omega
      omega
  · rintro ⟨hk, hlow⟩
    unfold lowestKey
    rw [keyOrder k, List.find?_append, List.find?_cons_of_pos hk]
    have : List.find? (keyPressed s) ((List.range k.toNat).map (BitVec.ofNat 4)) = none := by
      rw [List.find?_eq_none]
      intro l hl
      simp only [List.mem_map, List.mem_range] at hl
      obtain ⟨n, hn1, hn2⟩ := hl
      have hk16 := k.toNat_lt
      have : l.toNat = n := by rw [← hn2]; simp; omega
      simp [hlow l (by omega)]
    simp [this]

theorem lowestKey_eq_none (s : State) : lowestKey s = none ↔ ∀ k : Nibble, keyPressed s k = false := by
  constructor
  · intro h k
    unfold lowestKey at h
    rw [List.find?_eq_none] at h
    have hm : k ∈ (List.range 16).map (BitVec.ofNat 4) := by rw [keyOrder k]; simp
    simpa using h k hm
  · intro h
    unfold lowestKey
    rw [List.find?_eq_none]
    intro k _
    simp [h k]

@[simp] theorem toNat_keyValue (k : Nibble) : (keyValue k).toNat = k.toNat := by
  simp [keyValue]
  have := k.toNat_lt
  omega

/-- What the key-wait poll can do (R81). -/
theorem pollKeys_cases (s : State) :
    (∃ k, lowestKey s = some k ∧ pollKeys s = unblock (writeV s s.waitX (keyValue k))) ∨
    (lowestKey s = none ∧ pollKeys s = s) := by
  unfold pollKeys
  cases h : lowestKey s with
  | some k => exact .inl ⟨k, rfl, rfl⟩
  | none => exact .inr ⟨rfl, rfl⟩

/-! ### The data range check -/

theorem dataRangeOk_iff (s : State) (n : Nat) :
    dataRangeOk s n = true ↔ n = 0 ∨ s.I.toNat + n - 1 ≤ 0xFFF := by
  simp [dataRangeOk]

/-- What a range-checked data access can do: its effect, or the error latch and nothing else (R43). -/
theorem withDataRange_cases (s : State) (n : Nat) (effect : State) :
    ((n = 0 ∨ s.I.toNat + n - 1 ≤ 0xFFF) ∧ withDataRange s n effect = effect) ∨
    ((1 ≤ n ∧ 0xFFF < s.I.toNat + n - 1) ∧ withDataRange s n effect = raise s .dataOutOfRange s.I) := by
  unfold withDataRange
  by_cases h : dataRangeOk s n = true
  · exact .inl ⟨(dataRangeOk_iff s n).1 h, by rw [if_pos h]⟩
  · have h' := mt (dataRangeOk_iff s n).2 h
    exact .inr ⟨by omega, by rw [if_neg h]⟩

theorem withDataRange_ok {s : State} {n : Nat} (effect : State) (h : n = 0 ∨ s.I.toNat + n - 1 ≤ 0xFFF) :
    withDataRange s n effect = effect := by
  rw [withDataRange, if_pos ((dataRangeOk_iff s n).2 h)]

theorem withDataRange_error {s : State} {n : Nat} (effect : State) (h : 1 ≤ n) (h' : 0xFFF < s.I.toNat + n - 1) :
    withDataRange s n effect = raise s .dataOutOfRange s.I := by
  rw [withDataRange, if_neg]
  rw [dataRangeOk_iff]
  omega

/-! ### Halting and fetching -/

theorem halted_iff (s : State) : halted s = true ↔ s.err ≠ .noError := by simp [halted]

theorem fetchOk_iff (s : State) : fetchOk s = true ↔ s.pc.toNat ≤ 0x0FFE := by simp [fetchOk]

/-! ### Frames -/

theorem Agree.refl (c : Component) (s : State) : Agree c s s := by
  cases c <;> rfl

theorem Agree.trans {c : Component} {s t u : State} (h : Agree c s t) (h' : Agree c t u) : Agree c s u := by
  cases c <;> exact Eq.trans h' h

/-- Two states that agree on every component, with canonical memories, are one state: no field is outside the frames. -/
theorem eq_of_agree {s t : State} (hs : Memory.wf s.mem = true) (ht : Memory.wf t.mem = true)
    (h : ∀ c, Agree c s t) : t = s := by
  have hV : t.V = s.V := by
    ext1 k hk
    have := h (.reg (BitVec.ofNat 4 k))
    simpa [Agree, readV, Nat.mod_eq_of_lt hk] using this
  have hstack : t.stack = s.stack := by
    ext1 k hk
    exact h (.stackEntry ⟨k, hk⟩)
  have hmem : t.mem = s.mem := wfFrom_ext _ ht hs fun a => h (.memByte a)
  have hfb : t.fb = s.fb := by
    ext y hy x hx
    exact h (.pixel ⟨y, hy⟩ ⟨x, hx⟩)
  have hkey : t.key = s.key := by
    ext k hk
    have := h (.key (BitVec.ofNat 4 k))
    simpa [Agree, keyPressed, Nat.mod_eq_of_lt hk] using this
  have h1 := h .pc; have h2 := h .I; have h3 := h .sp; have h4 := h .DT; have h5 := h .ST
  have h6 := h .wait; have h7 := h .waitX; have h8 := h .err; have h9 := h .errInfo
  have h10 := h .IR; have h11 := h .diag; have h12 := h .cfg; have h13 := h .draws
  cases s; cases t
  simp only [Agree] at *
  subst_vars
  rfl

end Sys2Proof.Machine
end

