-- ==== Sys2Proof/Laws/Display.lean ====
section
/-! SUPPORT. What drawing does to each pixel, and when it collides (spec 44_display.md R161). -/

namespace Sys2Proof.Machine

@[simp] theorem pixel_blankFb (y : Fin 32) (x : Fin 64) : pixel blankFb y x = false := by
  simp [pixel, blankFb]

/-- One set sprite bit: it inverts its own pixel and no other. -/
theorem pixel_drawPixel (y x : Nat) (d : Drawing) (y' : Fin 32) (x' : Fin 64) :
    pixel (drawPixel y x d).1 y' x' =
      if y'.val = y ∧ x'.val = x then !pixel d.1 y' x' else pixel d.1 y' x' := by
  unfold drawPixel
  by_cases h : y < 32 ∧ x < 64
  · rw [dif_pos h]
    by_cases hy : y'.val = y
    · subst hy
      by_cases hx : x'.val = x
      · subst hx
        simp [pixel]
      · have hx' : x ≠ x'.val := fun q => hx q.symm
        simp [pixel, hx, hx']
    · have hy' : y ≠ y'.val := fun q => hy q.symm
      simp [pixel, hy, hy']
  · rw [dif_neg h, if_neg]
    rintro ⟨rfl, rfl⟩
    exact h ⟨y'.isLt, x'.isLt⟩

/-- One set sprite bit collides when it lies inside the screen on a pixel that is on. -/
theorem collision_drawPixel (y x : Nat) (d : Drawing) :
    (drawPixel y x d).2 = true ↔
      d.2 = true ∨ ∃ (y' : Fin 32) (x' : Fin 64), y'.val = y ∧ x'.val = x ∧ pixel d.1 y' x' = true := by
  unfold drawPixel
  by_cases h : y < 32 ∧ x < 64
  · rw [dif_pos h]
    simp only [Bool.or_eq_true]
    constructor
    · rintro (h1 | h1)
      · exact .inl h1
      · exact .inr ⟨⟨y, h.1⟩, ⟨x, h.2⟩, rfl, rfl, h1⟩
    · rintro (h1 | ⟨y', x', rfl, rfl, h1⟩)
      · exact .inl h1
      · exact .inr h1
  · rw [dif_neg h]
    constructor
    · exact .inl
    · rintro (h1 | ⟨y', x', rfl, rfl, -⟩)
      · exact h1
      · exact absurd ⟨y'.isLt, x'.isLt⟩ h

/-- The first `c` columns of a sprite row, as `drawRow` folds them. -/
def drawRowTo (b : Byte) (y x0 c : Nat) (d : Drawing) : Drawing :=
  (List.range c).foldl (fun d c => if b.getLsbD (7 - c) then drawPixel y (x0 + c) d else d) d

theorem drawRow_eq (b : Byte) (y x0 : Nat) (d : Drawing) : drawRow b y x0 d = drawRowTo b y x0 8 d := rfl

theorem drawRowTo_succ (b : Byte) (y x0 c : Nat) (d : Drawing) :
    drawRowTo b y x0 (c + 1) d =
      if b.getLsbD (7 - c) then drawPixel y (x0 + c) (drawRowTo b y x0 c d) else drawRowTo b y x0 c d := by
  simp [drawRowTo, List.range_succ]

theorem pixel_drawRowTo (b : Byte) (y x0 : Nat) (d : Drawing) (y' : Fin 32) (x' : Fin 64) : ∀ c : Nat,
    pixel (drawRowTo b y x0 c d).1 y' x' =
      (pixel d.1 y' x' ^^
        decide (y'.val = y ∧ x0 ≤ x'.val ∧ x'.val < x0 + c ∧ b.getLsbD (7 - (x'.val - x0)) = true)) := by
  intro c
  induction c with
  | zero =>
    have : ¬ (y'.val = y ∧ x0 ≤ x'.val ∧ x'.val < x0 + 0 ∧ b.getLsbD (7 - (x'.val - x0)) = true) := by omega
    rw [decide_eq_false this, Bool.xor_false]
    rfl
  | succ c ih =>
    rw [drawRowTo_succ]
    by_cases hc : x'.val = x0 + c ∧ y'.val = y
    · have hsub : x'.val - x0 = c := by omega
      by_cases hb : b.getLsbD (7 - c) = true
      · rw [if_pos hb, pixel_drawPixel, if_pos ⟨hc.2, hc.1⟩, ih]
        have h1 : ¬ (x'.val < x0 + c) := by omega
        have h2 : x0 ≤ x'.val ∧ x'.val < x0 + (c + 1) := by omega
        simp [h1, h2, hc.2, hsub, hb]
      · rw [if_neg hb, ih]
        have h1 : ¬ (x'.val < x0 + c) := by omega
        simp [h1, hsub, hb]
    · have hne : ¬ (y'.val = y ∧ x'.val = x0 + c) := fun q => hc ⟨q.2, q.1⟩
      have hiff : (y'.val = y ∧ x0 ≤ x'.val ∧ x'.val < x0 + c ∧ b.getLsbD (7 - (x'.val - x0)) = true) ↔
          (y'.val = y ∧ x0 ≤ x'.val ∧ x'.val < x0 + (c + 1) ∧ b.getLsbD (7 - (x'.val - x0)) = true) := by
        constructor
        · rintro ⟨p, q, r, t⟩
          exact ⟨p, q, by omega, t⟩
        · rintro ⟨p, q, r, t⟩
          exact ⟨p, q, by omega, t⟩
      by_cases hb : b.getLsbD (7 - c) = true
      · rw [if_pos hb, pixel_drawPixel, if_neg hne, ih]
        simp only [hiff]
      · rw [if_neg hb, ih]
        simp only [hiff]

theorem collision_drawRowTo (b : Byte) (y x0 : Nat) (d : Drawing) : ∀ c : Nat,
    (drawRowTo b y x0 c d).2 = true ↔ d.2 = true ∨ ∃ (y' : Fin 32) (x' : Fin 64),
      (y'.val = y ∧ x0 ≤ x'.val ∧ x'.val < x0 + c ∧ b.getLsbD (7 - (x'.val - x0)) = true) ∧
        pixel d.1 y' x' = true := by
  intro c
  induction c with
  | zero =>
    constructor
    · exact .inl
    · rintro (h | ⟨y', x', ⟨-, h1, h2, -⟩, -⟩)
      · exact h
      · omega
  | succ c ih =>
    rw [drawRowTo_succ]
    by_cases hb : b.getLsbD (7 - c) = true
    · rw [if_pos hb, collision_drawPixel, ih]
      constructor
      · rintro ((h | ⟨y', x', ⟨h1, h2, h3, h4⟩, h5⟩) | ⟨y', x', h1, h2, h3⟩)
        · exact .inl h
        · exact .inr ⟨y', x', ⟨h1, h2, by omega, h4⟩, h5⟩
        · rw [pixel_drawRowTo] at h3
          have hn : ¬ (x'.val < x0 + c) := by omega
          have hs : x'.val - x0 = c := by omega
          exact .inr ⟨y', x', ⟨h1, by omega, by omega, by rw [hs]; exact hb⟩, by simpa [hn] using h3⟩
      · rintro (h | ⟨y', x', ⟨h1, h2, h3, h4⟩, h5⟩)
        · exact .inl (.inl h)
        · by_cases hx : x'.val < x0 + c
          · exact .inl (.inr ⟨y', x', ⟨h1, h2, hx, h4⟩, h5⟩)
          · refine .inr ⟨y', x', h1, by omega, ?_⟩
            rw [pixel_drawRowTo]
            simp [hx, h5]
    · rw [if_neg hb, ih]
      constructor
      · rintro (h | ⟨y', x', ⟨h1, h2, h3, h4⟩, h5⟩)
        · exact .inl h
        · exact .inr ⟨y', x', ⟨h1, h2, by omega, h4⟩, h5⟩
      · rintro (h | ⟨y', x', ⟨h1, h2, h3, h4⟩, h5⟩)
        · exact .inl h
        · by_cases hx : x'.val < x0 + c
          · exact .inr ⟨y', x', ⟨h1, h2, hx, h4⟩, h5⟩
          · have hs : x'.val - x0 = c := by omega
            rw [hs] at h4
            exact absurd h4 hb

/-- Drawing a sprite: it inverts exactly the pixels that a set sprite bit covers, and it collides exactly when one of
them was on before (R161). -/
theorem drawSprite_spec (row : Nat → Byte) (x0 y0 : Nat) (f : Framebuffer) : ∀ n : Nat,
    (∀ (y : Fin 32) (x : Fin 64), pixel (drawSprite row x0 y0 n f).1 y x = true ↔
      (pixel f y x = true ↔ ¬ spriteCovers row x0 y0 n y.val x.val)) ∧
    ((drawSprite row x0 y0 n f).2 = true ↔
      ∃ (y : Fin 32) (x : Fin 64), spriteCovers row x0 y0 n y.val x.val ∧ pixel f y x = true) := by
  intro n
  induction n with
  | zero =>
    have hno : ∀ y x, ¬ spriteCovers row x0 y0 0 y x := by
      rintro y x ⟨⟨h1, h2⟩, -⟩
      omega
    constructor
    · intro y x
      simp [drawSprite, hno]
    · simp [drawSprite, hno]
  | succ n ih =>
    have hsucc : drawSprite row x0 y0 (n + 1) f = drawRow (row n) (y0 + n) x0 (drawSprite row x0 y0 n f) := by
      simp [drawSprite, List.range_succ]
    have hcov : ∀ y x, spriteCovers row x0 y0 (n + 1) y x ↔ spriteCovers row x0 y0 n y x ∨
        (y = y0 + n ∧ x0 ≤ x ∧ x < x0 + 8 ∧ (row n).getLsbD (7 - (x - x0)) = true) := by
      intro y x
      unfold spriteCovers
      constructor
      · rintro ⟨⟨h1, h2⟩, ⟨h3, h4⟩, h5⟩
        by_cases hy : y = y0 + n
        · have : y - y0 = n := by omega
          rw [this] at h5
          exact .inr ⟨hy, h3, h4, h5⟩
        · exact .inl ⟨⟨h1, by omega⟩, ⟨h3, h4⟩, h5⟩
      · rintro (⟨⟨h1, h2⟩, ⟨h3, h4⟩, h5⟩ | ⟨h1, h3, h4, h5⟩)
        · exact ⟨⟨h1, by omega⟩, ⟨h3, h4⟩, h5⟩
        · have : y - y0 = n := by omega
          exact ⟨by omega, ⟨h3, h4⟩, by rw [this]; exact h5⟩
    have hdisj : ∀ x, ¬ spriteCovers row x0 y0 n (y0 + n) x := by
      rintro x ⟨⟨h1, h2⟩, -⟩
      omega
    rw [hsucc, drawRow_eq]
    constructor
    · intro y x
      rw [pixel_drawRowTo, hcov]
      by_cases hrow : y.val = y0 + n ∧ x0 ≤ x.val ∧ x.val < x0 + 8 ∧ (row n).getLsbD (7 - (x.val - x0)) = true
      · have hn : ¬ spriteCovers row x0 y0 n y.val x.val := by rw [hrow.1]; exact hdisj _
        have := ih.1 y x
        simp only [hn, not_false_eq_true, iff_true] at this
        simp only [hrow, and_self, decide_true, Bool.xor_true, or_true, not_true_eq_false, iff_false]
        simpa using Bool.eq_iff_iff.2 this
      · simp only [hrow, decide_false, Bool.xor_false, or_false]
        exact ih.1 y x
    · rw [collision_drawRowTo, ih.2]
      constructor
      · rintro (⟨y, x, h1, h2⟩ | ⟨y, x, h1, h2⟩)
        · exact ⟨y, x, (hcov _ _).2 (.inl h1), h2⟩
        · refine ⟨y, x, (hcov _ _).2 (.inr h1), ?_⟩
          have hn : ¬ spriteCovers row x0 y0 n y.val x.val := by rw [h1.1]; exact hdisj _
          have := (ih.1 y x).1 h2
          simpa [hn] using this
      · rintro ⟨y, x, h1, h2⟩
        rcases (hcov _ _).1 h1 with h | h
        · exact .inl ⟨y, x, h, h2⟩
        · refine .inr ⟨y, x, h, ?_⟩
          have hn : ¬ spriteCovers row x0 y0 n y.val x.val := by rw [h.1]; exact hdisj _
          exact (ih.1 y x).2 (by simp [hn, h2])

/-! ### The framebuffer as a list (R196) -/

theorem length_flatMap_toList {α : Type} (n : Nat) (rows : List (Vector α n)) :
    (rows.flatMap Vector.toList).length = rows.length * n := by
  induction rows with
  | nil => simp
  | cons v rows ih => simp [ih, Nat.succ_mul, Nat.add_comm]

/-- Entry x of row y stands at index y·n + x of the rows put one after the other. -/
theorem getElem?_flatMap_toList {α : Type} (n : Nat) : ∀ (rows : List (Vector α n)) (y x : Nat) (hx : x < n)
    (hy : y < rows.length), (rows.flatMap Vector.toList)[y * n + x]? = some (rows[y][x]) := by
  intro rows
  induction rows with
  | nil => intro y x _ h; simp at h
  | cons v rows ih =>
    intro y x hx hy
    cases y with
    | zero => simp [List.getElem?_append, hx]
    | succ y =>
      have h := ih y x hx (by simpa using hy)
      rw [List.flatMap_cons, List.getElem?_append_right (by simp [Nat.succ_mul]; omega)]
      simp only [Vector.length_toList]
      rw [show (y + 1) * n + x - n = y * n + x by rw [Nat.succ_mul]; omega, h]
      simp

end Sys2Proof.Machine
end

