-- ==== Sys2Proof/Laws/Step.lean ====
section
/-! SUPPORT. What a Step can do (spec 40_step_cycle.md R80), and the lemmas of each instruction's outcome. -/

namespace Sys2Proof.Machine

/-- Every way a Step can go, in the order of R216. -/
theorem step_cases (s : State) :
    (s.err ≠ .noError ∧ step s = .next s) ∨
    (s.err = .noError ∧ s.wait = true ∧ step s = .next (pollKeys s)) ∨
    (s.err = .noError ∧ s.wait = false ∧ 0x0FFE < s.pc.toNat ∧ step s = .next (raise s .fetchOutOfRange s.pc)) ∨
    (s.err = .noError ∧ s.wait = false ∧ s.pc.toNat ≤ 0x0FFE ∧ (∃ r, decodeWord (fetchWord s) = .error r) ∧
      step s = .next (recordUnrecognized (afterFetch s) (fetchWord s))) ∨
    (s.err = .noError ∧ s.wait = false ∧ s.pc.toNat ≤ 0x0FFE ∧
      ∃ i, decodeWord (fetchWord s) = .ok i ∧ step s = exec i (afterFetch s)) := by
  unfold step
  by_cases hh : halted s = true
  · exact .inl ⟨(halted_iff s).1 hh, by rw [if_pos hh]⟩
  have he : s.err = .noError := by simpa [halted] using hh
  rw [if_neg hh]
  cases hw : s.wait
  · by_cases hf : fetchOk s = true
    · have hpc := (fetchOk_iff s).1 hf
      simp only [Bool.false_eq_true, if_false, hf, if_true]
      cases hd : decodeWord (fetchWord s) with
      | ok i => exact .inr (.inr (.inr (.inr ⟨he, trivial, hpc, i, rfl, rfl⟩)))
      | error r => exact .inr (.inr (.inr (.inl ⟨he, trivial, hpc, ⟨r, rfl⟩, rfl⟩)))
    · have hpc : 0x0FFE < s.pc.toNat := by
        have := mt (fetchOk_iff s).2 hf
        omega
      exact .inr (.inr (.inl ⟨he, rfl, hpc, by simp [hf]⟩))
  · exact .inr (.inl ⟨he, rfl, by simp⟩)

/-- RET on a stack that is not empty (R100). -/
theorem execRet_pop (s : State) (h : 0 < s.sp.val) :
    execRet s = .next (setPc (popStack s h).2 (popStack s h).1) := by
  rw [execRet, dif_pos h]

/-- RET on an empty stack (R100). -/
theorem execRet_empty (s : State) (h : s.sp.val = 0) : execRet s = .next (raise s .stackUnderflow s.IR) := by
  rw [execRet, dif_neg (by omega)]

/-- CALL on a stack that is not full (R102). -/
theorem execCall_push (nnn : Addr) (s : State) (h : s.sp.val < 16) :
    execCall nnn s = .next (setPc (pushStack s s.pc h) (addrValue nnn)) := by
  rw [execCall, dif_pos h]

/-- CALL on a full stack (R102). -/
theorem execCall_full (nnn : Addr) (s : State) (h : s.sp.val = 16) :
    execCall nnn s = .next (raise s .stackOverflow s.IR) := by
  rw [execCall, dif_neg (by omega)]

@[simp] theorem toNat_addrValue (nnn : Addr) : (addrValue nnn).toNat = nnn.toNat := by
  have := nnn.isLt
  simp [addrValue]
  omega

@[simp] theorem toNat_wordOfV (s : State) (x : Nibble) : (wordOfV s x).toNat = (readV s x).toNat := by
  have := (readV s x).isLt
  simp [wordOfV]
  omega

@[simp] theorem toNat_flagValue (c : Bool) : (flagValue c).toNat = c.toNat := by cases c <;> rfl

/-- Reading after the two writes of a flag-writing operation: the flag wins on V[15] (R11). -/
@[simp] theorem readV_writeResultThenFlag (s : State) (x y : Nibble) (r : Byte) (c : Bool) :
    readV (writeResultThenFlag s x r c) y =
      if y = VF then flagValue c else if y = x then r else readV s y := by
  simp [writeResultThenFlag]

end Sys2Proof.Machine
end

