-- ==== Sys2Proof/Laws/Frames.lean ====
section
/-! SUPPORT. What each shared operation leaves unchanged, as one frame each; an instruction's frame is that of the operations its meaning calls. -/

namespace Sys2Proof.Machine

theorem ChangesOnly.refl (p : Component → Prop) (s : State) : ChangesOnly p s s :=
  fun c _ => Agree.refl c s

/-- A frame may be widened. -/
theorem ChangesOnly.mono {p q : Component → Prop} {s t : State} (h : ChangesOnly p s t) (hpq : ∀ c, p c → q c) :
    ChangesOnly q s t :=
  fun c hc => h c fun hp => hc (hpq c hp)

/-- Frames chain. -/
theorem ChangesOnly.trans {p : Component → Prop} {s t u : State} (h : ChangesOnly p s t) (h' : ChangesOnly p t u) :
    ChangesOnly p s u :=
  fun c hc => (h c hc).trans (h' c hc)

theorem writeV_frame (s : State) (x : Nibble) (b : Byte) : ChangesOnly (fun c => c = .reg x) s (writeV s x b) := by
  intro c hc
  cases c <;> simp_all [Agree]

theorem writeResultThenFlag_frame (s : State) (x : Nibble) (r : Byte) (f : Bool) :
    ChangesOnly (fun c => c = .reg x ∨ c = .reg VF) s (writeResultThenFlag s x r f) :=
  ((writeV_frame s x r).mono fun _ => .inl).trans ((writeV_frame _ VF _).mono fun _ => .inr)

theorem setPc_frame (s : State) (w : Word) : ChangesOnly (fun c => c = .pc) s (setPc s w) := by
  intro c hc
  cases c <;> first | rfl | exact absurd rfl hc

theorem setI_frame (s : State) (w : Word) : ChangesOnly (fun c => c = .I) s (setI s w) := by
  intro c hc
  cases c <;> first | rfl | exact absurd rfl hc

theorem setDT_frame (s : State) (b : Byte) : ChangesOnly (fun c => c = .DT) s (setDT s b) := by
  intro c hc
  cases c <;> first | rfl | exact absurd rfl hc

theorem setST_frame (s : State) (b : Byte) : ChangesOnly (fun c => c = .ST) s (setST s b) := by
  intro c hc
  cases c <;> first | rfl | exact absurd rfl hc

theorem setFb_frame (s : State) (f : Framebuffer) : ChangesOnly (fun c => ∃ y x, c = .pixel y x) s (setFb s f) := by
  intro c hc
  cases c <;> first | rfl | exact absurd ⟨_, _, rfl⟩ hc

/-- A store of bytes changes no byte outside its range, and nothing else. -/
theorem setMem_storeBytes_frame (s : State) (a : Nat) (bs : List Byte) :
    ChangesOnly (fun c => ∃ k < bs.length, c = .memByte (a + k)) s (setMem s (storeBytes s.mem a bs)) := by
  intro c hc
  cases c
  case memByte b =>
    have h : ¬ (a ≤ b ∧ b < a + bs.length) := fun h =>
      hc ⟨b - a, by omega, congrArg Component.memByte (by omega)⟩
    simp [Agree, memRead_storeBytes, h]
  all_goals rfl

theorem loadV_frame (s : State) (x : Nibble) (a : Nat) :
    ChangesOnly (fun c => ∃ k : Nibble, k.toNat ≤ x.toNat ∧ c = .reg k) s (loadV s x a) := by
  intro c hc
  cases c
  case reg k =>
    have h : ¬ k.toNat ≤ x.toNat := fun h => hc ⟨k, h, rfl⟩
    simp only [Agree, readV_loadV, if_neg h]
  all_goals simp only [Agree, loadV_pc, loadV_I, loadV_stack, loadV_sp, loadV_DT, loadV_ST, loadV_mem, loadV_fb, loadV_wait,
    loadV_waitX, loadV_err, loadV_errInfo, loadV_IR, loadV_diag, loadV_cfg, loadV_draws, keyPressed, loadV_key]

theorem draw8_frame (s : State) : ChangesOnly (fun c => c = .draws) s (draw8 s).2 := by
  intro c hc
  cases c <;> first | rfl | exact absurd rfl hc

theorem skipIf_frame (b : Bool) (s : State) : ChangesOnly (fun c => c = .pc) s (skipIf b s) := by
  cases b
  · exact ChangesOnly.refl _ s
  · exact setPc_frame s _

/-- A push writes the entry that `sp` indexes, and `sp`. -/
theorem pushStack_frame (s : State) (w : Word) (h : s.sp.val < 16) :
    ChangesOnly (fun c => c = .stackEntry ⟨s.sp.val, h⟩ ∨ c = .sp) s (pushStack s w h) := by
  intro c hc
  cases c
  case stackEntry k =>
    have hk : s.sp.val ≠ k.val := fun e => hc (.inl (congrArg Component.stackEntry (Fin.ext e.symm)))
    simp [Agree, pushStack, hk]
  case sp => exact absurd (.inr rfl) hc
  all_goals rfl

/-- A pop writes `sp` only: the entry stays. -/
theorem popStack_frame (s : State) (h : 0 < s.sp.val) : ChangesOnly (fun c => c = .sp) s (popStack s h).2 := by
  intro c hc
  cases c <;> first | rfl | exact absurd rfl hc

theorem raise_frame (s : State) (e : ErrCode) (w : Word) :
    ChangesOnly (fun c => c = .err ∨ c = .errInfo) s (raise s e w) := by
  intro c hc
  cases c <;> first | rfl | exact absurd (.inl rfl) hc | exact absurd (.inr rfl) hc

theorem blockOnKey_frame (s : State) (x : Nibble) :
    ChangesOnly (fun c => c = .wait ∨ c = .waitX) s (blockOnKey s x) := by
  intro c hc
  cases c <;> first | rfl | exact absurd (.inl rfl) hc | exact absurd (.inr rfl) hc

theorem unblock_frame (s : State) : ChangesOnly (fun c => c = .wait) s (unblock s) := by
  intro c hc
  cases c <;> first | rfl | exact absurd rfl hc

theorem afterFetch_frame (s : State) : ChangesOnly (fun c => c = .pc ∨ c = .IR) s (afterFetch s) := by
  intro c hc
  cases c <;> first | rfl | exact absurd (.inl rfl) hc | exact absurd (.inr rfl) hc

theorem recordUnrecognized_frame (s : State) (w : Word) :
    ChangesOnly (fun c => c = .diag) s (recordUnrecognized s w) := by
  intro c hc
  cases c <;> first | rfl | exact absurd rfl hc

theorem tickTimers_frame (s : State) : ChangesOnly (fun c => c = .DT ∨ c = .ST) s (tickTimers s) :=
  ((setDT_frame s _).mono fun _ => .inl).trans ((setST_frame _ _).mono fun _ => .inr)

theorem setKey_frame (k : Nibble) (p : Bool) (s : State) : ChangesOnly (fun c => c = .key k) s (setKey k p s) := by
  intro c hc
  cases c
  case key j =>
    have hj : j ≠ k := fun e => hc (congrArg Component.key e)
    simp [Agree, hj]
  all_goals rfl

/-- The fetch of a ready state moves `pc` past the word without reduction (R82). -/
theorem afterFetch_toNat_pc {s : State} (h : s.pc.toNat ≤ 0x0FFE) : (afterFetch s).pc.toNat = s.pc.toNat + 2 := by
  simp [afterFetch]
  omega

end Sys2Proof.Machine
end

