-- ==== Sys2Proof/Laws/HostOps.lean ====
section
/-! SUPPORT. What a move of the host can do (spec 46_host_operations.md R190 to R199). -/

namespace Sys2Proof.Machine

/-- LoadROM of bytes that fit (R191). -/
theorem loadROM_ok {bytes : List Byte} (s : State) (h : bytes.length ≤ romMax) :
    loadROM bytes s = .ok (setMem s (storeBytes s.mem 0x200 bytes)) := by
  rw [loadROM, if_pos h]

/-- LoadROM of bytes that do not fit (R192). -/
theorem loadROM_tooLong {bytes : List Byte} (s : State) (h : romMax < bytes.length) :
    loadROM bytes s = .error .romTooLong := by
  rw [loadROM, if_neg (by omega)]

/-- Every way a move can go, with the phase in which the host has it. -/
theorem hostMove_cases {o : HostOp} {h h' : Session} {r : HostReply} (hm : hostMove o h = some (h', r)) :
    (o = .reset ∧ h' = ⟨.constructed, hostReset h.core⟩ ∧ r = .done) ∨
    (∃ bytes, o = .loadROM bytes ∧ h.phase = .constructed ∧
      ((bytes.length ≤ romMax ∧ h' = ⟨.loaded, setMem h.core (storeBytes h.core.mem 0x200 bytes)⟩ ∧ r = .loaded) ∨
       (romMax < bytes.length ∧ h' = ⟨.failed, h.core⟩ ∧ r = .loadError .romTooLong))) ∨
    (o = .step ∧ h.phase = .loaded ∧ ∃ t, step h.core = .next t ∧ h' = ⟨.loaded, t⟩ ∧ r = .opcode t.IR) ∨
    (o = .tickTimers ∧ h.phase ≠ .failed ∧ h' = ⟨h.phase, tickTimers h.core⟩ ∧ r = .done) ∨
    (∃ k p, o = .setKey k p ∧ h.phase ≠ .failed ∧ h' = ⟨h.phase, setKey k p h.core⟩ ∧ r = .done) ∨
    (o = .getFramebuffer ∧ h.phase ≠ .failed ∧ h' = h ∧ r = .pixels (getFramebuffer h.core)) ∨
    (o = .getDiagnostics ∧ h.phase ≠ .failed ∧ h' = h ∧ r = .opcodes (getDiagnostics h.core)) := by
  obtain ⟨p, s⟩ := h
  unfold hostMove at hm
  split at hm
  case isFalse => cases hm
  case isTrue ha =>
    cases o with
    | reset => cases hm; exact .inl ⟨rfl, rfl, rfl⟩
    | loadROM bytes =>
      have hp : p = .constructed := by cases p <;> first | rfl | cases ha
      refine .inr (.inl ⟨bytes, rfl, hp, ?_⟩)
      rcases Nat.lt_or_ge romMax bytes.length with hl | hl
      · simp only [hostEffect, loadROM_tooLong s hl] at hm
        cases hm
        exact .inr ⟨hl, rfl, rfl⟩
      · simp only [hostEffect, loadROM_ok s hl] at hm
        cases hm
        exact .inl ⟨hl, rfl, rfl⟩
    | step =>
      have hp : p = .loaded := by cases p <;> first | rfl | cases ha
      subst hp
      simp only [hostEffect] at hm
      cases hs : Sys2Proof.Machine.step s with
      | next t =>
        rw [hs] at hm
        cases hm
        exact .inr (.inr (.inl ⟨rfl, rfl, t, rfl, rfl, rfl⟩))
      | fault f => cases f
      | refused f =>
        rw [hs] at hm
        cases hm
    | tickTimers =>
      cases hm
      exact .inr (.inr (.inr (.inl ⟨rfl, (by rintro rfl; cases ha), rfl, rfl⟩)))
    | setKey k b =>
      cases hm
      exact .inr (.inr (.inr (.inr (.inl ⟨k, b, rfl, (by rintro rfl; cases ha), rfl, rfl⟩))))
    | getFramebuffer =>
      cases hm
      exact .inr (.inr (.inr (.inr (.inr (.inl ⟨rfl, (by rintro rfl; cases ha), rfl, rfl⟩)))))
    | getDiagnostics =>
      cases hm
      exact .inr (.inr (.inr (.inr (.inr (.inr ⟨rfl, (by rintro rfl; cases ha), rfl, rfl⟩)))))

end Sys2Proof.Machine
end

