-- ==== Sys2Proof/Laws/PerInstr.lean ====
section
/-! SUPPORT. The statements made for every instruction: each is well formed, and each encoded word selects the instruction's row of the opcode map. -/

/-! ### Every instruction is well formed (R61, R67) -/

/-- The instruction's assembler form passes every check. -/
def Sys2Proof.Laws.WellFormed.Statement (i : Sys2Proof.Instr) : Prop :=
  i.wellFormed = true

namespace Sys2Proof

theorem nibble_lt (x : Nibble) : x.toNat < 16 := x.isLt
theorem byte_lt (b : Byte) : b.toNat < 256 := b.isLt
theorem addr_lt (a : Addr) : a.toNat < 4096 := a.isLt

end Sys2Proof

theorem Sys2Proof.Laws.WellFormed.cls : Sys2Proof.Laws.WellFormed.Statement .cls := by
  simp [Statement, Sys2Proof.Instr.wellFormed, Sys2Proof.Instr.toAsm, Sys2Proof.AsmLine.wellFormed]

theorem Sys2Proof.Laws.WellFormed.ret : Sys2Proof.Laws.WellFormed.Statement .ret := by
  simp [Statement, Sys2Proof.Instr.wellFormed, Sys2Proof.Instr.toAsm, Sys2Proof.AsmLine.wellFormed]

theorem Sys2Proof.Laws.WellFormed.jp (nnn : Sys2Proof.Addr) : Sys2Proof.Laws.WellFormed.Statement (.jp nnn) := by
  simp [Statement, Sys2Proof.Instr.wellFormed, Sys2Proof.Instr.toAsm, Sys2Proof.AsmLine.wellFormed, Sys2Proof.addr_lt]

theorem Sys2Proof.Laws.WellFormed.call (nnn : Sys2Proof.Addr) : Sys2Proof.Laws.WellFormed.Statement (.call nnn) := by
  simp [Statement, Sys2Proof.Instr.wellFormed, Sys2Proof.Instr.toAsm, Sys2Proof.AsmLine.wellFormed, Sys2Proof.addr_lt]

theorem Sys2Proof.Laws.WellFormed.seImm (x : Sys2Proof.Nibble) (nn : Sys2Proof.Byte) : Sys2Proof.Laws.WellFormed.Statement (.seImm x nn) := by
  simp [Statement, Sys2Proof.Instr.wellFormed, Sys2Proof.Instr.toAsm, Sys2Proof.AsmLine.wellFormed, Sys2Proof.nibble_lt, Sys2Proof.byte_lt]

theorem Sys2Proof.Laws.WellFormed.sneImm (x : Sys2Proof.Nibble) (nn : Sys2Proof.Byte) : Sys2Proof.Laws.WellFormed.Statement (.sneImm x nn) := by
  simp [Statement, Sys2Proof.Instr.wellFormed, Sys2Proof.Instr.toAsm, Sys2Proof.AsmLine.wellFormed, Sys2Proof.nibble_lt, Sys2Proof.byte_lt]

theorem Sys2Proof.Laws.WellFormed.seReg (x y : Sys2Proof.Nibble) : Sys2Proof.Laws.WellFormed.Statement (.seReg x y) := by
  simp [Statement, Sys2Proof.Instr.wellFormed, Sys2Proof.Instr.toAsm, Sys2Proof.AsmLine.wellFormed, Sys2Proof.nibble_lt]

theorem Sys2Proof.Laws.WellFormed.sneReg (x y : Sys2Proof.Nibble) : Sys2Proof.Laws.WellFormed.Statement (.sneReg x y) := by
  simp [Statement, Sys2Proof.Instr.wellFormed, Sys2Proof.Instr.toAsm, Sys2Proof.AsmLine.wellFormed, Sys2Proof.nibble_lt]

theorem Sys2Proof.Laws.WellFormed.ldImm (x : Sys2Proof.Nibble) (nn : Sys2Proof.Byte) : Sys2Proof.Laws.WellFormed.Statement (.ldImm x nn) := by
  simp [Statement, Sys2Proof.Instr.wellFormed, Sys2Proof.Instr.toAsm, Sys2Proof.AsmLine.wellFormed, Sys2Proof.nibble_lt, Sys2Proof.byte_lt]

theorem Sys2Proof.Laws.WellFormed.addImm (x : Sys2Proof.Nibble) (nn : Sys2Proof.Byte) : Sys2Proof.Laws.WellFormed.Statement (.addImm x nn) := by
  simp [Statement, Sys2Proof.Instr.wellFormed, Sys2Proof.Instr.toAsm, Sys2Proof.AsmLine.wellFormed, Sys2Proof.nibble_lt, Sys2Proof.byte_lt]

theorem Sys2Proof.Laws.WellFormed.ldReg (x y : Sys2Proof.Nibble) : Sys2Proof.Laws.WellFormed.Statement (.ldReg x y) := by
  simp [Statement, Sys2Proof.Instr.wellFormed, Sys2Proof.Instr.toAsm, Sys2Proof.AsmLine.wellFormed, Sys2Proof.nibble_lt]

theorem Sys2Proof.Laws.WellFormed.orReg (x y : Sys2Proof.Nibble) : Sys2Proof.Laws.WellFormed.Statement (.orReg x y) := by
  simp [Statement, Sys2Proof.Instr.wellFormed, Sys2Proof.Instr.toAsm, Sys2Proof.AsmLine.wellFormed, Sys2Proof.nibble_lt]

theorem Sys2Proof.Laws.WellFormed.andReg (x y : Sys2Proof.Nibble) : Sys2Proof.Laws.WellFormed.Statement (.andReg x y) := by
  simp [Statement, Sys2Proof.Instr.wellFormed, Sys2Proof.Instr.toAsm, Sys2Proof.AsmLine.wellFormed, Sys2Proof.nibble_lt]

theorem Sys2Proof.Laws.WellFormed.xorReg (x y : Sys2Proof.Nibble) : Sys2Proof.Laws.WellFormed.Statement (.xorReg x y) := by
  simp [Statement, Sys2Proof.Instr.wellFormed, Sys2Proof.Instr.toAsm, Sys2Proof.AsmLine.wellFormed, Sys2Proof.nibble_lt]

theorem Sys2Proof.Laws.WellFormed.addReg (x y : Sys2Proof.Nibble) : Sys2Proof.Laws.WellFormed.Statement (.addReg x y) := by
  simp [Statement, Sys2Proof.Instr.wellFormed, Sys2Proof.Instr.toAsm, Sys2Proof.AsmLine.wellFormed, Sys2Proof.nibble_lt]

theorem Sys2Proof.Laws.WellFormed.subReg (x y : Sys2Proof.Nibble) : Sys2Proof.Laws.WellFormed.Statement (.subReg x y) := by
  simp [Statement, Sys2Proof.Instr.wellFormed, Sys2Proof.Instr.toAsm, Sys2Proof.AsmLine.wellFormed, Sys2Proof.nibble_lt]

theorem Sys2Proof.Laws.WellFormed.shr (x y : Sys2Proof.Nibble) : Sys2Proof.Laws.WellFormed.Statement (.shr x y) := by
  simp [Statement, Sys2Proof.Instr.wellFormed, Sys2Proof.Instr.toAsm, Sys2Proof.AsmLine.wellFormed, Sys2Proof.nibble_lt]

theorem Sys2Proof.Laws.WellFormed.subnReg (x y : Sys2Proof.Nibble) : Sys2Proof.Laws.WellFormed.Statement (.subnReg x y) := by
  simp [Statement, Sys2Proof.Instr.wellFormed, Sys2Proof.Instr.toAsm, Sys2Proof.AsmLine.wellFormed, Sys2Proof.nibble_lt]

theorem Sys2Proof.Laws.WellFormed.shl (x y : Sys2Proof.Nibble) : Sys2Proof.Laws.WellFormed.Statement (.shl x y) := by
  simp [Statement, Sys2Proof.Instr.wellFormed, Sys2Proof.Instr.toAsm, Sys2Proof.AsmLine.wellFormed, Sys2Proof.nibble_lt]

theorem Sys2Proof.Laws.WellFormed.ldI (nnn : Sys2Proof.Addr) : Sys2Proof.Laws.WellFormed.Statement (.ldI nnn) := by
  simp [Statement, Sys2Proof.Instr.wellFormed, Sys2Proof.Instr.toAsm, Sys2Proof.AsmLine.wellFormed, Sys2Proof.addr_lt]

theorem Sys2Proof.Laws.WellFormed.jpV0 (nnn : Sys2Proof.Addr) : Sys2Proof.Laws.WellFormed.Statement (.jpV0 nnn) := by
  simp [Statement, Sys2Proof.Instr.wellFormed, Sys2Proof.Instr.toAsm, Sys2Proof.AsmLine.wellFormed, Sys2Proof.addr_lt]

theorem Sys2Proof.Laws.WellFormed.rnd (x : Sys2Proof.Nibble) (nn : Sys2Proof.Byte) : Sys2Proof.Laws.WellFormed.Statement (.rnd x nn) := by
  simp [Statement, Sys2Proof.Instr.wellFormed, Sys2Proof.Instr.toAsm, Sys2Proof.AsmLine.wellFormed, Sys2Proof.nibble_lt, Sys2Proof.byte_lt]

theorem Sys2Proof.Laws.WellFormed.drw (x y n : Sys2Proof.Nibble) : Sys2Proof.Laws.WellFormed.Statement (.drw x y n) := by
  simp [Statement, Sys2Proof.Instr.wellFormed, Sys2Proof.Instr.toAsm, Sys2Proof.AsmLine.wellFormed, Sys2Proof.nibble_lt]

theorem Sys2Proof.Laws.WellFormed.skp (x : Sys2Proof.Nibble) : Sys2Proof.Laws.WellFormed.Statement (.skp x) := by
  simp [Statement, Sys2Proof.Instr.wellFormed, Sys2Proof.Instr.toAsm, Sys2Proof.AsmLine.wellFormed, Sys2Proof.nibble_lt]

theorem Sys2Proof.Laws.WellFormed.sknp (x : Sys2Proof.Nibble) : Sys2Proof.Laws.WellFormed.Statement (.sknp x) := by
  simp [Statement, Sys2Proof.Instr.wellFormed, Sys2Proof.Instr.toAsm, Sys2Proof.AsmLine.wellFormed, Sys2Proof.nibble_lt]

theorem Sys2Proof.Laws.WellFormed.ldVxDt (x : Sys2Proof.Nibble) : Sys2Proof.Laws.WellFormed.Statement (.ldVxDt x) := by
  simp [Statement, Sys2Proof.Instr.wellFormed, Sys2Proof.Instr.toAsm, Sys2Proof.AsmLine.wellFormed, Sys2Proof.nibble_lt]

theorem Sys2Proof.Laws.WellFormed.ldVxK (x : Sys2Proof.Nibble) : Sys2Proof.Laws.WellFormed.Statement (.ldVxK x) := by
  simp [Statement, Sys2Proof.Instr.wellFormed, Sys2Proof.Instr.toAsm, Sys2Proof.AsmLine.wellFormed, Sys2Proof.nibble_lt]

theorem Sys2Proof.Laws.WellFormed.ldDtVx (x : Sys2Proof.Nibble) : Sys2Proof.Laws.WellFormed.Statement (.ldDtVx x) := by
  simp [Statement, Sys2Proof.Instr.wellFormed, Sys2Proof.Instr.toAsm, Sys2Proof.AsmLine.wellFormed, Sys2Proof.nibble_lt]

theorem Sys2Proof.Laws.WellFormed.ldStVx (x : Sys2Proof.Nibble) : Sys2Proof.Laws.WellFormed.Statement (.ldStVx x) := by
  simp [Statement, Sys2Proof.Instr.wellFormed, Sys2Proof.Instr.toAsm, Sys2Proof.AsmLine.wellFormed, Sys2Proof.nibble_lt]

theorem Sys2Proof.Laws.WellFormed.addI (x : Sys2Proof.Nibble) : Sys2Proof.Laws.WellFormed.Statement (.addI x) := by
  simp [Statement, Sys2Proof.Instr.wellFormed, Sys2Proof.Instr.toAsm, Sys2Proof.AsmLine.wellFormed, Sys2Proof.nibble_lt]

theorem Sys2Proof.Laws.WellFormed.ldF (x : Sys2Proof.Nibble) : Sys2Proof.Laws.WellFormed.Statement (.ldF x) := by
  simp [Statement, Sys2Proof.Instr.wellFormed, Sys2Proof.Instr.toAsm, Sys2Proof.AsmLine.wellFormed, Sys2Proof.nibble_lt]

theorem Sys2Proof.Laws.WellFormed.ldB (x : Sys2Proof.Nibble) : Sys2Proof.Laws.WellFormed.Statement (.ldB x) := by
  simp [Statement, Sys2Proof.Instr.wellFormed, Sys2Proof.Instr.toAsm, Sys2Proof.AsmLine.wellFormed, Sys2Proof.nibble_lt]

theorem Sys2Proof.Laws.WellFormed.storeRegs (x : Sys2Proof.Nibble) : Sys2Proof.Laws.WellFormed.Statement (.storeRegs x) := by
  simp [Statement, Sys2Proof.Instr.wellFormed, Sys2Proof.Instr.toAsm, Sys2Proof.AsmLine.wellFormed, Sys2Proof.nibble_lt]

theorem Sys2Proof.Laws.WellFormed.loadRegs (x : Sys2Proof.Nibble) : Sys2Proof.Laws.WellFormed.Statement (.loadRegs x) := by
  simp [Statement, Sys2Proof.Instr.wellFormed, Sys2Proof.Instr.toAsm, Sys2Proof.AsmLine.wellFormed, Sys2Proof.nibble_lt]

/-! ### Every encoded word selects its row (R64) -/

/-- The canonical word selects the instruction's row of R64. -/
def Sys2Proof.Laws.OpcodeRow.Statement (i : Sys2Proof.Instr) : Prop :=
  (Sys2Proof.opcodeRow i).selects (Sys2Proof.encode i) = true

theorem Sys2Proof.Laws.OpcodeRow.cls : Sys2Proof.Laws.OpcodeRow.Statement .cls :=
  beq_iff_eq.2 (by decide)

theorem Sys2Proof.Laws.OpcodeRow.ret : Sys2Proof.Laws.OpcodeRow.Statement .ret :=
  beq_iff_eq.2 (by decide)

theorem Sys2Proof.Laws.OpcodeRow.jp (nnn : Sys2Proof.Addr) : Sys2Proof.Laws.OpcodeRow.Statement (.jp nnn) :=
  beq_iff_eq.2 (Sys2Proof.and_F000 _ nnn)

theorem Sys2Proof.Laws.OpcodeRow.call (nnn : Sys2Proof.Addr) : Sys2Proof.Laws.OpcodeRow.Statement (.call nnn) :=
  beq_iff_eq.2 (Sys2Proof.and_F000 _ nnn)

theorem Sys2Proof.Laws.OpcodeRow.seImm (x : Sys2Proof.Nibble) (nn : Sys2Proof.Byte) : Sys2Proof.Laws.OpcodeRow.Statement (.seImm x nn) :=
  beq_iff_eq.2 (Sys2Proof.and_F000 _ (x ++ nn))

theorem Sys2Proof.Laws.OpcodeRow.sneImm (x : Sys2Proof.Nibble) (nn : Sys2Proof.Byte) : Sys2Proof.Laws.OpcodeRow.Statement (.sneImm x nn) :=
  beq_iff_eq.2 (Sys2Proof.and_F000 _ (x ++ nn))

theorem Sys2Proof.Laws.OpcodeRow.seReg (x y : Sys2Proof.Nibble) : Sys2Proof.Laws.OpcodeRow.Statement (.seReg x y) :=
  beq_iff_eq.2 (Sys2Proof.and_F000 _ (x ++ (y ++ 0x0#4)))

theorem Sys2Proof.Laws.OpcodeRow.sneReg (x y : Sys2Proof.Nibble) : Sys2Proof.Laws.OpcodeRow.Statement (.sneReg x y) :=
  beq_iff_eq.2 (Sys2Proof.and_F000 _ (x ++ (y ++ 0x0#4)))

theorem Sys2Proof.Laws.OpcodeRow.ldImm (x : Sys2Proof.Nibble) (nn : Sys2Proof.Byte) : Sys2Proof.Laws.OpcodeRow.Statement (.ldImm x nn) :=
  beq_iff_eq.2 (Sys2Proof.and_F000 _ (x ++ nn))

theorem Sys2Proof.Laws.OpcodeRow.addImm (x : Sys2Proof.Nibble) (nn : Sys2Proof.Byte) : Sys2Proof.Laws.OpcodeRow.Statement (.addImm x nn) :=
  beq_iff_eq.2 (Sys2Proof.and_F000 _ (x ++ nn))

theorem Sys2Proof.Laws.OpcodeRow.ldReg (x y : Sys2Proof.Nibble) : Sys2Proof.Laws.OpcodeRow.Statement (.ldReg x y) :=
  beq_iff_eq.2 (Sys2Proof.and_F00F _ x y _)

theorem Sys2Proof.Laws.OpcodeRow.orReg (x y : Sys2Proof.Nibble) : Sys2Proof.Laws.OpcodeRow.Statement (.orReg x y) :=
  beq_iff_eq.2 (Sys2Proof.and_F00F _ x y _)

theorem Sys2Proof.Laws.OpcodeRow.andReg (x y : Sys2Proof.Nibble) : Sys2Proof.Laws.OpcodeRow.Statement (.andReg x y) :=
  beq_iff_eq.2 (Sys2Proof.and_F00F _ x y _)

theorem Sys2Proof.Laws.OpcodeRow.xorReg (x y : Sys2Proof.Nibble) : Sys2Proof.Laws.OpcodeRow.Statement (.xorReg x y) :=
  beq_iff_eq.2 (Sys2Proof.and_F00F _ x y _)

theorem Sys2Proof.Laws.OpcodeRow.addReg (x y : Sys2Proof.Nibble) : Sys2Proof.Laws.OpcodeRow.Statement (.addReg x y) :=
  beq_iff_eq.2 (Sys2Proof.and_F00F _ x y _)

theorem Sys2Proof.Laws.OpcodeRow.subReg (x y : Sys2Proof.Nibble) : Sys2Proof.Laws.OpcodeRow.Statement (.subReg x y) :=
  beq_iff_eq.2 (Sys2Proof.and_F00F _ x y _)

theorem Sys2Proof.Laws.OpcodeRow.shr (x y : Sys2Proof.Nibble) : Sys2Proof.Laws.OpcodeRow.Statement (.shr x y) :=
  beq_iff_eq.2 (Sys2Proof.and_F00F _ x y _)

theorem Sys2Proof.Laws.OpcodeRow.subnReg (x y : Sys2Proof.Nibble) : Sys2Proof.Laws.OpcodeRow.Statement (.subnReg x y) :=
  beq_iff_eq.2 (Sys2Proof.and_F00F _ x y _)

theorem Sys2Proof.Laws.OpcodeRow.shl (x y : Sys2Proof.Nibble) : Sys2Proof.Laws.OpcodeRow.Statement (.shl x y) :=
  beq_iff_eq.2 (Sys2Proof.and_F00F _ x y _)

theorem Sys2Proof.Laws.OpcodeRow.ldI (nnn : Sys2Proof.Addr) : Sys2Proof.Laws.OpcodeRow.Statement (.ldI nnn) :=
  beq_iff_eq.2 (Sys2Proof.and_F000 _ nnn)

theorem Sys2Proof.Laws.OpcodeRow.jpV0 (nnn : Sys2Proof.Addr) : Sys2Proof.Laws.OpcodeRow.Statement (.jpV0 nnn) :=
  beq_iff_eq.2 (Sys2Proof.and_F000 _ nnn)

theorem Sys2Proof.Laws.OpcodeRow.rnd (x : Sys2Proof.Nibble) (nn : Sys2Proof.Byte) : Sys2Proof.Laws.OpcodeRow.Statement (.rnd x nn) :=
  beq_iff_eq.2 (Sys2Proof.and_F000 _ (x ++ nn))

theorem Sys2Proof.Laws.OpcodeRow.drw (x y n : Sys2Proof.Nibble) : Sys2Proof.Laws.OpcodeRow.Statement (.drw x y n) :=
  beq_iff_eq.2 (Sys2Proof.and_F000 _ (x ++ (y ++ n)))

theorem Sys2Proof.Laws.OpcodeRow.skp (x : Sys2Proof.Nibble) : Sys2Proof.Laws.OpcodeRow.Statement (.skp x) :=
  beq_iff_eq.2 (Sys2Proof.and_F0FF _ x _)

theorem Sys2Proof.Laws.OpcodeRow.sknp (x : Sys2Proof.Nibble) : Sys2Proof.Laws.OpcodeRow.Statement (.sknp x) :=
  beq_iff_eq.2 (Sys2Proof.and_F0FF _ x _)

theorem Sys2Proof.Laws.OpcodeRow.ldVxDt (x : Sys2Proof.Nibble) : Sys2Proof.Laws.OpcodeRow.Statement (.ldVxDt x) :=
  beq_iff_eq.2 (Sys2Proof.and_F0FF _ x _)

theorem Sys2Proof.Laws.OpcodeRow.ldVxK (x : Sys2Proof.Nibble) : Sys2Proof.Laws.OpcodeRow.Statement (.ldVxK x) :=
  beq_iff_eq.2 (Sys2Proof.and_F0FF _ x _)

theorem Sys2Proof.Laws.OpcodeRow.ldDtVx (x : Sys2Proof.Nibble) : Sys2Proof.Laws.OpcodeRow.Statement (.ldDtVx x) :=
  beq_iff_eq.2 (Sys2Proof.and_F0FF _ x _)

theorem Sys2Proof.Laws.OpcodeRow.ldStVx (x : Sys2Proof.Nibble) : Sys2Proof.Laws.OpcodeRow.Statement (.ldStVx x) :=
  beq_iff_eq.2 (Sys2Proof.and_F0FF _ x _)

theorem Sys2Proof.Laws.OpcodeRow.addI (x : Sys2Proof.Nibble) : Sys2Proof.Laws.OpcodeRow.Statement (.addI x) :=
  beq_iff_eq.2 (Sys2Proof.and_F0FF _ x _)

theorem Sys2Proof.Laws.OpcodeRow.ldF (x : Sys2Proof.Nibble) : Sys2Proof.Laws.OpcodeRow.Statement (.ldF x) :=
  beq_iff_eq.2 (Sys2Proof.and_F0FF _ x _)

theorem Sys2Proof.Laws.OpcodeRow.ldB (x : Sys2Proof.Nibble) : Sys2Proof.Laws.OpcodeRow.Statement (.ldB x) :=
  beq_iff_eq.2 (Sys2Proof.and_F0FF _ x _)

theorem Sys2Proof.Laws.OpcodeRow.storeRegs (x : Sys2Proof.Nibble) : Sys2Proof.Laws.OpcodeRow.Statement (.storeRegs x) :=
  beq_iff_eq.2 (Sys2Proof.and_F0FF _ x _)

theorem Sys2Proof.Laws.OpcodeRow.loadRegs (x : Sys2Proof.Nibble) : Sys2Proof.Laws.OpcodeRow.Statement (.loadRegs x) :=
  beq_iff_eq.2 (Sys2Proof.and_F0FF _ x _)
end

