-- ==== Sys2Proof/Tests/Slice0.lean ====
section
/-! SUPPORT. Tests of the model on fixed values, each expected value written out from spec/ (the vectors of 95_test_vectors.md, the patterns of 30_encoding.md R64), and the witnesses that the hypotheses of the obligations can be met together. -/

namespace Sys2Proof.Tests

open Sys2Proof Sys2Proof.Machine

/-! ### Small states -/

/-- The state after reset with one opcode at 0x200. -/
def fresh (w : Nat) : State := State.reset.withFetchWord 16 w

def withV (x : Nibble) (b : Byte) (s : State) : State := writeV s x b
def withI (w : Word) (s : State) : State := setI s w
def withPc (w : Word) (s : State) : State := setPc s w
def withMem (a : Nat) (bs : List Byte) (s : State) : State := setMem s (storeBytes s.mem a bs)
def withKey (k : Nibble) (s : State) : State := setKey k true s
def withSp (n : Fin 17) (s : State) : State := { s with sp := n }
def withErr (e : ErrCode) (w : Word) (s : State) : State := raise s e w
def withShiftVY (s : State) : State := { s with cfg := { s.cfg with shiftUsesVY := true } }
def withPixel (y : Fin 32) (x : Fin 64) (s : State) : State :=
  setFb s (s.fb.set y.val (s.fb[y.val].set x.val true))

/-- The state after one Step. -/
def after (s : State) : State :=
  match step s with
  | .next t => t
  | _ => s


/-! ### WellFormed smoke: an ill-formed line for each check, and what it stands for when well formed (R61, R67, R68) -/

theorem test_refused_register_V16 :
    AsmLine.wellFormed ⟨.SKP, [.reg 16]⟩ = false ∧ assemble ⟨.SKP, [.reg 16]⟩ = none := by decide
theorem test_refused_second_register_V16 :
    AsmLine.wellFormed ⟨.OR, [.reg 0, .reg 16]⟩ = false ∧ assemble ⟨.OR, [.reg 0, .reg 16]⟩ = none := by decide
theorem test_refused_nn_256 :
    AsmLine.wellFormed ⟨.LD, [.reg 0, .num 0x100]⟩ = false ∧ assemble ⟨.LD, [.reg 0, .num 0x100]⟩ = none := by decide
theorem test_refused_nnn_4096 :
    AsmLine.wellFormed ⟨.JP, [.num 0x1000]⟩ = false ∧ assemble ⟨.JP, [.num 0x1000]⟩ = none := by decide
theorem test_refused_nnn_of_I :
    AsmLine.wellFormed ⟨.LD, [.I, .num 0x1000]⟩ = false ∧ assemble ⟨.LD, [.I, .num 0x1000]⟩ = none := by decide
theorem test_refused_n_16 :
    AsmLine.wellFormed ⟨.DRW, [.reg 0, .reg 1, .num 16]⟩ = false ∧ assemble ⟨.DRW, [.reg 0, .reg 1, .num 16]⟩ = none := by decide
theorem test_refused_jump_V1 :
    AsmLine.wellFormed ⟨.JP, [.reg 1, .num 0x300]⟩ = false ∧ assemble ⟨.JP, [.reg 1, .num 0x300]⟩ = none := by decide
theorem test_refused_shape :
    AsmLine.wellFormed ⟨.CLS, [.reg 0]⟩ = false ∧ assemble ⟨.CLS, [.reg 0]⟩ = none := by decide
theorem test_refused_call_register :
    AsmLine.wellFormed ⟨.CALL, [.reg 0]⟩ = false ∧ assemble ⟨.CALL, [.reg 0]⟩ = none := by decide
theorem test_refused_no_operand : AsmLine.wellFormed ⟨.SHR, []⟩ = false ∧ assemble ⟨.SHR, []⟩ = none := by decide
theorem test_refused_store_number :
    AsmLine.wellFormed ⟨.LD, [.atI, .num 1]⟩ = false ∧ assemble ⟨.LD, [.atI, .num 1]⟩ = none := by decide
theorem test_refused_timer_source :
    AsmLine.wellFormed ⟨.LD, [.reg 0, .ST]⟩ = false ∧ assemble ⟨.LD, [.reg 0, .ST]⟩ = none := by decide
theorem test_accepted_boundaries : AsmLine.wellFormed ⟨.DRW, [.reg 15, .reg 15, .num 15]⟩ = true ∧
    AsmLine.wellFormed ⟨.JP, [.num 0xFFF]⟩ = true ∧ AsmLine.wellFormed ⟨.LD, [.reg 15, .num 0xFF]⟩ = true := by decide
theorem test_assemble_shift_one_operand : assemble ⟨.SHR, [.reg 3]⟩ = some (.shr 3 0) := by decide

/-! ### Decoding: a word of each row of R64, written from its pattern, and the rejected words of 95 F -/

theorem test_decode_words_0 : decodeTableWord 16 0x00E0 = some (.cls) ∧
    decodeTableWord 16 0x00EE = some (.ret) ∧
    decodeTableWord 16 0x1ABC = some (.jp 0xABC) ∧
    decodeTableWord 16 0x2300 = some (.call 0x300) ∧
    decodeTableWord 16 0x3A5C = some (.seImm 0xA 0x5C) ∧
    decodeTableWord 16 0x4A5C = some (.sneImm 0xA 0x5C) := by decide
theorem test_decode_words_1 : decodeTableWord 16 0x512F = some (.seReg 1 2) ∧
    decodeTableWord 16 0x912A = some (.sneReg 1 2) ∧
    decodeTableWord 16 0x600A = some (.ldImm 0 0x0A) ∧
    decodeTableWord 16 0x7B01 = some (.addImm 0xB 0x01) ∧
    decodeTableWord 16 0x8120 = some (.ldReg 1 2) ∧
    decodeTableWord 16 0x8121 = some (.orReg 1 2) := by decide
theorem test_decode_words_2 : decodeTableWord 16 0x8122 = some (.andReg 1 2) ∧
    decodeTableWord 16 0x8123 = some (.xorReg 1 2) ∧
    decodeTableWord 16 0x8124 = some (.addReg 1 2) ∧
    decodeTableWord 16 0x8125 = some (.subReg 1 2) ∧
    decodeTableWord 16 0x8126 = some (.shr 1 2) ∧
    decodeTableWord 16 0x8127 = some (.subnReg 1 2) := by decide
theorem test_decode_words_3 : decodeTableWord 16 0x812E = some (.shl 1 2) ∧
    decodeTableWord 16 0xA050 = some (.ldI 0x050) ∧
    decodeTableWord 16 0xB2FF = some (.jpV0 0x2FF) ∧
    decodeTableWord 16 0xC30F = some (.rnd 3 0x0F) ∧
    decodeTableWord 16 0xD01F = some (.drw 0 1 0xF) ∧
    decodeTableWord 16 0xE39E = some (.skp 3) := by decide
theorem test_decode_words_4 : decodeTableWord 16 0xE3A1 = some (.sknp 3) ∧
    decodeTableWord 16 0xF407 = some (.ldVxDt 4) ∧
    decodeTableWord 16 0xF30A = some (.ldVxK 3) ∧
    decodeTableWord 16 0xF315 = some (.ldDtVx 3) ∧
    decodeTableWord 16 0xF318 = some (.ldStVx 3) ∧
    decodeTableWord 16 0xF21E = some (.addI 2) := by decide
theorem test_decode_words_5 : decodeTableWord 16 0xFA29 = some (.ldF 0xA) ∧
    decodeTableWord 16 0xF033 = some (.ldB 0) ∧
    decodeTableWord 16 0xF255 = some (.storeRegs 2) ∧
    decodeTableWord 16 0xF265 = some (.loadRegs 2) := by decide
theorem test_decode_unrecognized :
    [0x0000, 0x0123, 0x00E1, 0x01E0, 0x0FFF, 0x8128, 0x812F, 0x8008, 0xE000, 0xE09F, 0xE1A0, 0xF000, 0xF108, 0xF11F, 0xF175, 0xF1FF].all (fun w => decodeTableWord 16 w == none) = true := by decide
theorem test_decode_truncated : decodeBytes [0x60] = .error .truncated := by decide
theorem test_encode_words :
    encode (.jp 0xABC) = 0x1ABC ∧ encode (.seReg 1 2) = 0x5120 ∧ encode (.drw 0 1 0xF) = 0xD01F ∧ encode (.sknp 3) = 0xE3A1 ∧ encode (.loadRegs 2) = 0xF265 ∧ encode (.shl 1 2) = 0x812E := by decide

/-! ### One Step of each instruction (vectors of 95_test_vectors.md part 2) -/

theorem test_cls : let t := after (fresh 0x00E0 |> withPixel 0 0 |> withPixel 31 63 |> withV 0xF 0x01)
    pixel t.fb 0 0 = false ∧ pixel t.fb 31 63 = false ∧ readV t VF = 0x01 := by decide
theorem test_ret : let t := after (fresh 0x00EE |> withSp 1)
    t.pc = 0x0000 ∧ t.sp = 0 ∧ t.err = .noError := by decide
theorem test_ret_underflow : let t := after (fresh 0x00EE)
    t.err = .stackUnderflow ∧ t.errInfo = 0x00EE ∧ t.pc = 0x0202 ∧ t.sp = 0 := by decide
theorem test_jp : let t := after (fresh 0x1ABC)
    t.pc = 0x0ABC := by decide
theorem test_call : let t := after (fresh 0x2300)
    t.stack[0] = 0x0202 ∧ t.sp = 1 ∧ t.pc = 0x0300 := by decide
theorem test_call_overflow : let t := after (fresh 0x2300 |> withSp 16)
    t.err = .stackOverflow ∧ t.errInfo = 0x2300 ∧ t.pc = 0x0202 ∧ t.sp = 16 := by decide
theorem test_seImm_skip : let t := after (fresh 0x3FAB |> withV 0xF 0xAB)
    t.pc = 0x0204 := by decide
theorem test_seImm_no_skip : let t := after (fresh 0x3000 |> withV 0x0 0x01)
    t.pc = 0x0202 := by decide
theorem test_sneImm_skip : let t := after (fresh 0x4311 |> withV 0x3 0x10)
    t.pc = 0x0204 := by decide
theorem test_sneImm_no_skip : let t := after (fresh 0x4310 |> withV 0x3 0x10)
    t.pc = 0x0202 := by decide
theorem test_seReg_skip : let t := after (fresh 0x5121 |> withV 0x1 0x07 |> withV 0x2 0x07)
    t.pc = 0x0204 ∧ t.diag = [] := by decide
theorem test_seReg_no_skip : let t := after (fresh 0x512F |> withV 0x1 0x07 |> withV 0x2 0x08)
    t.pc = 0x0202 := by decide
theorem test_sneReg_skip : let t := after (fresh 0x912A |> withV 0x1 0x07 |> withV 0x2 0x08)
    t.pc = 0x0204 ∧ t.diag = [] := by decide
theorem test_sneReg_no_skip : let t := after (fresh 0x9330 |> withV 0x3 0x09)
    t.pc = 0x0202 := by decide
theorem test_jpV0 : let t := after (fresh 0xB2FF |> withV 0x0 0xFF |> withV 0x2 0x33)
    t.pc = 0x03FE := by decide
theorem test_jpV0_not_masked : let t := after (fresh 0xBFFF |> withV 0x0 0xFF)
    t.pc = 0x10FE := by decide
/-- Scenario A. -/
theorem test_ldImm : let t := after (fresh 0x600A)
    readV t 0x0 = 0x0A ∧ t.pc = 0x0202 ∧ t.IR = 0x600A := by decide
theorem test_addImm_wraps : let t := after (fresh 0x7001 |> withV 0x0 0xFF |> withV 0xF 0x07)
    readV t 0x0 = 0x00 ∧ readV t 0xF = 0x07 := by decide
theorem test_addImm_VF : let t := after (fresh 0x7F01 |> withV 0xF 0xFF)
    readV t 0xF = 0x00 := by decide
theorem test_ldReg : let t := after (fresh 0x8120 |> withV 0x2 0x7E)
    readV t 0x1 = 0x7E ∧ readV t 0x2 = 0x7E := by decide
theorem test_orReg : let t := after (fresh 0x8121 |> withV 0x1 0xF0 |> withV 0x2 0x0F |> withV 0xF 0x05)
    readV t 0x1 = 0xFF ∧ readV t 0xF = 0x05 := by decide
theorem test_andReg : let t := after (fresh 0x8122 |> withV 0x1 0xF0 |> withV 0x2 0x3C |> withV 0xF 0x05)
    readV t 0x1 = 0x30 ∧ readV t 0xF = 0x05 := by decide
theorem test_xorReg : let t := after (fresh 0x8123 |> withV 0x1 0xF0 |> withV 0x2 0x3C |> withV 0xF 0x05)
    readV t 0x1 = 0xCC ∧ readV t 0xF = 0x05 := by decide
theorem test_addReg : let t := after (fresh 0x8124 |> withV 0x1 0xFF |> withV 0x2 0x01)
    readV t 0x1 = 0x00 ∧ readV t 0xF = 0x01 := by decide
theorem test_addReg_VF_destination : let t := after (fresh 0x8F14 |> withV 0xF 0xF0 |> withV 0x1 0x20)
    readV t 0xF = 0x01 ∧ readV t 0x1 = 0x20 := by decide
theorem test_subReg_borrow : let t := after (fresh 0x8125 |> withV 0x1 0x03 |> withV 0x2 0x05)
    readV t 0x1 = 0xFE ∧ readV t 0xF = 0x00 := by decide
theorem test_subReg_VF_source : let t := after (fresh 0x81F5 |> withV 0x1 0x09 |> withV 0xF 0x03)
    readV t 0x1 = 0x06 ∧ readV t 0xF = 0x01 := by decide
theorem test_shr : let t := after (fresh 0x8126 |> withV 0x1 0x05 |> withV 0x2 0xFE)
    readV t 0x1 = 0x02 ∧ readV t 0xF = 0x01 ∧ readV t 0x2 = 0xFE := by decide
theorem test_shr_uses_VY : let t := after (fresh 0x8126 |> withShiftVY |> withV 0x1 0x05 |> withV 0x2 0xFE)
    readV t 0x1 = 0x7F ∧ readV t 0xF = 0x00 ∧ readV t 0x2 = 0xFE := by decide
theorem test_subnReg : let t := after (fresh 0x8127 |> withV 0x1 0x03 |> withV 0x2 0x05)
    readV t 0x1 = 0x02 ∧ readV t 0xF = 0x01 := by decide
theorem test_subnReg_equal : let t := after (fresh 0x8127 |> withV 0x1 0x05 |> withV 0x2 0x05)
    readV t 0x1 = 0x00 ∧ readV t 0xF = 0x00 := by decide
theorem test_shl : let t := after (fresh 0x812E |> withV 0x1 0x81 |> withV 0x2 0x40)
    readV t 0x1 = 0x02 ∧ readV t 0xF = 0x01 := by decide
theorem test_shl_uses_VY : let t := after (fresh 0x812E |> withShiftVY |> withV 0x1 0xFF |> withV 0x2 0x41)
    readV t 0x1 = 0x82 ∧ readV t 0xF = 0x00 := by decide
theorem test_ldI : let t := after (fresh 0xA050)
    t.I = 0x0050 := by decide
/-- The drawn byte is free; only the mask shows. -/
theorem test_rnd_masked : ∃ b : Byte, step (fresh 0xC30F) = .next (after (fresh 0xC30F)) ∧
    readV (after (fresh 0xC30F)) 3 = b &&& 0x0F ∧ (after (fresh 0xC30F)).draws = 1 := ⟨Config.drawByte 0, rfl, rfl, rfl⟩
theorem test_addI : let t := after (fresh 0xF21E |> withI 0x0FFF |> withV 0x2 0xFF |> withV 0xF 0x07)
    t.I = 0x10FE ∧ readV t VF = 0x07 ∧ t.err = .noError := by decide
theorem test_addI_wraps : let t := after (fresh 0xF21E |> withI 0xFFFF |> withV 0x2 0x02)
    t.I = 0x0001 := by decide
theorem test_ldF : let t := after (fresh 0xFA29 |> withV 0xA 0x0F)
    t.I = 0x009B := by decide
theorem test_ldF_not_masked : let t := after (fresh 0xFA29 |> withV 0xA 0xFF)
    t.I = 0x054B := by decide
theorem test_ldB : let t := after (fresh 0xF033 |> withI 0x0FFD |> withV 0x0 0xEA)
    memRead t.mem 0xFFD = 2 ∧ memRead t.mem 0xFFE = 3 ∧ memRead t.mem 0xFFF = 4 := by decide
theorem test_ldB_out_of_range : let t := after (fresh 0xF033 |> withI 0x0FFE |> withV 0x0 0xFF)
    t.err = .dataOutOfRange ∧ t.errInfo = 0x0FFE ∧ memRead t.mem 0xFFE = 0 ∧ t.pc = 0x0202 := by decide
theorem test_storeRegs : let t := after (fresh 0xF255 |> withI 0x0400 |> withV 0x0 0x11 |> withV 0x1 0x22 |> withV 0x2 0x33 |> withV 0x3 0x44)
    memRead t.mem 0x400 = 0x11 ∧ memRead t.mem 0x401 = 0x22 ∧ memRead t.mem 0x402 = 0x33 ∧
      memRead t.mem 0x403 = 0 ∧ t.I = 0x0400 := by decide
theorem test_storeRegs_out_of_range : let t := after (fresh 0xF155 |> withI 0x0FFF |> withV 0x0 0x11)
    t.err = .dataOutOfRange ∧ memRead t.mem 0xFFF = 0 := by decide
theorem test_loadRegs : let t := after (fresh 0xF265 |> withI 0x0300 |> withMem 0x300 [2, 3, 4, 5] |> withV 0x3 0x99)
    readV t 0 = 2 ∧ readV t 1 = 3 ∧ readV t 2 = 4 ∧ readV t 3 = 0x99 ∧ t.I = 0x0300 := by decide
theorem test_loadRegs_font : let t := after (fresh 0xFF65 |> withI 0x0050)
    readV t 0 = 0xF0 ∧ readV t 5 = 0x20 ∧ readV t 0xF = 0xF0 := by decide
theorem test_drw_collision_and_clip : let t := after (fresh 0xD012 |> withV 0x0 0x3C |> withV 0x1 0x1F |> withI 0x0300 |> withMem 0x300 [0xFF, 0xFF] |> withPixel 31 63)
    pixel t.fb 31 59 = false ∧ pixel t.fb 31 60 = true ∧ pixel t.fb 31 62 = true ∧ pixel t.fb 31 63 = false ∧
      pixel t.fb 0 0 = false ∧ pixel t.fb 0 60 = false ∧ readV t VF = 1 := by decide
theorem test_drw_bit_order : let t := after (fresh 0xDF01 |> withV 0xF 0x03 |> withV 0x0 0x02 |> withI 0x0300 |> withMem 0x300 [0x80])
    pixel t.fb 2 3 = true ∧ pixel t.fb 2 10 = false ∧ pixel t.fb 0 0 = false ∧ readV t VF = 0 := by decide
theorem test_skp : let t := after (fresh 0xE39E |> withV 0x3 0x17 |> withKey 7)
    t.pc = 0x0204 := by decide
theorem test_skp_no_key : let t := after (fresh 0xE39E |> withV 0x3 0x07)
    t.pc = 0x0202 := by decide
theorem test_sknp : let t := after (fresh 0xE3A1 |> withV 0x3 0x07)
    t.pc = 0x0204 := by decide
theorem test_sknp_key : let t := after (fresh 0xE3A1 |> withV 0x3 0xF0 |> withKey 0)
    t.pc = 0x0202 := by decide
theorem test_ldVxDt : let t := after (fresh 0xF407 |> (fun s => setDT s 5))
    readV t 4 = 5 ∧ t.DT = 5 := by decide
theorem test_ldVxK : let t := after (fresh 0xF30A |> withKey 0xC |> withKey 9 |> withKey 4)
    readV t 3 = 4 ∧ t.wait = false ∧ t.pc = 0x0202 := by decide
theorem test_ldVxK_blocks : let t := after (fresh 0xFF0A |> withV 0xF 0x09)
    t.wait = true ∧ t.waitX = 0xF ∧ readV t VF = 9 ∧ t.pc = 0x0202 := by decide
theorem test_ldDtVx : let t := after (fresh 0xF315 |> withV 0x3 0x07)
    t.DT = 7 ∧ t.ST = 0 := by decide
theorem test_ldStVx : let t := after (fresh 0xF318 |> withV 0x3 0x02)
    t.ST = 2 ∧ t.DT = 0 := by decide

/-! ### The Step itself -/

theorem test_unrecognized : let t := after (fresh 0x8128)
    t.diag = [0x8128] ∧ t.pc = 0x0202 ∧ t.IR = 0x8128 ∧ t.err = .noError := by decide
theorem test_fetch_top : let t := after (fresh 0 |> withPc 0x0FFE |> withMem 0xFFE [0x60, 0x07])
    readV t 0 = 7 ∧ t.pc = 0x1000 ∧ t.err = .noError := by decide
theorem test_fetch_out_of_range : let t := after (fresh 0 |> withPc 0x0FFF)
    t.err = .fetchOutOfRange ∧ t.errInfo = 0x0FFF ∧ t.pc = 0x0FFF := by decide
theorem test_poll : let t := after (blockOnKey (fresh 0xF30A) 0xF |> withKey 0xB)
    readV t VF = 0xB ∧ t.wait = false ∧ t.pc = 0x0200 := by decide

/-! ### Host operations -/

theorem test_load_rom :
    (match loadROM [0x60, 0x0A, 0xFF] State.reset with
      | .ok t => [0x1FF, 0x200, 0x202, 0x203, 0x09F].map (memRead t.mem)
      | .error _ => []) = [0, 0x60, 0xFF, 0, 0x80] := by decide
theorem test_tick_timers : let t := tickTimers (setST (setDT State.reset 1) 0xFF)
    t.DT = 0 ∧ t.ST = 0xFE ∧ (tickTimers t).DT = 0 := by decide
theorem test_set_key : keyPressed (setKey 7 false (setKey 7 true State.reset)) 7 = false := by decide
theorem test_reset_is_construct : construct defaultConfig = State.reset := by decide
theorem test_font_bytes : memRead State.reset.mem 0x069 = 0xF0 ∧ memRead State.reset.mem 0x06A = 0x80 ∧ memRead State.reset.mem 0x04F = 0 ∧
    memRead State.reset.mem 0x0A0 = 0 := by decide
theorem test_memory_canonical :
    memWrite (memWrite [] 0x300 1) 0x300 0 = [] ∧ memWrite [(0x300, 1)] 0x200 2 = [(0x200, 2), (0x300, 1)] := by decide

/-! ### Witnesses: states and operands that meet the hypotheses of each obligation together, at the ends of their ranges -/

theorem witness_EncodeAfterDecode : decodeWord 0x512F = .ok (.seReg 1 2) ∧ decodeWord 0x00EE = .ok .ret := by decide

theorem witness_DecoderFollowsOpcodeMap :
    (∃ i, decodeWord 0x812E = .ok i) ∧ (∃ r ∈ opcodeTable, r.selects 0x812E = true) ∧
    (∃ r ∈ opcodeTable, r.selects 0xF065 = true ∧ r.selects 0xFF65 = true) :=
  ⟨⟨.shl 1 2, by decide⟩, by decide, by decide⟩

/-- Both sides of each clause hold at the ends of its range: first and last word of each rejected set. -/
theorem witness_UnrecognizedWordsByGroup :
    decodeWord 0x0000 = .error .unrecognizedGroup0 ∧ decodeWord 0x0FFF = .error .unrecognizedGroup0 ∧
    decodeWord 0x8008 = .error .unrecognizedGroup8 ∧ decodeWord 0x8FFF = .error .unrecognizedGroup8 ∧
    decodeWord 0xE000 = .error .unrecognizedGroupE ∧ decodeWord 0xEFFF = .error .unrecognizedGroupE ∧
    decodeWord 0xF000 = .error .unrecognizedGroupF ∧ decodeWord 0xFFFF = .error .unrecognizedGroupF := by decide

/-- Ready with a word that decodes, at the last address a word can be fetched from and at address 0. -/
theorem witness_StepRunsTheDecodedInstruction :
    Ready (fresh 0 |> withPc 0x0FFE |> withMem 0xFFE [0x60, 0x07]) ∧
    decodeWord (fetchWord (fresh 0 |> withPc 0x0FFE |> withMem 0xFFE [0x60, 0x07])) = .ok (.ldImm 0 7) ∧
    Ready (fresh 0 |> withPc 0 |> withMem 0 [0x00, 0xE0]) ∧
    decodeWord (fetchWord (fresh 0 |> withPc 0 |> withMem 0 [0x00, 0xE0])) = .ok .cls := by
  unfold Ready
  decide

theorem witness_StepCallReturnsBigEndianOpcode : Ready (fresh 0x0123) ∧ Ready (fresh 0x0123 |> withPc 0x0FFE) := by
  unfold Ready
  decide

theorem witness_UnrecognizedOpcodeIsRecordedAndSkipped :
    Ready (fresh 0xF1FF |> withSp 16) ∧
      decodeWord (fetchWord (fresh 0xF1FF |> withSp 16)) = .error .unrecognizedGroupF := by
  unfold Ready
  decide

theorem witness_FetchBeyondMemoryHalts :
    (let s := fresh 0 |> withPc 0x0FFF
     s.err = .noError ∧ s.wait = false ∧ 0x0FFE < s.pc.toNat) ∧
    (let s := fresh 0 |> withPc 0xFFFF
     s.err = .noError ∧ s.wait = false ∧ 0x0FFE < s.pc.toNat) := by decide

theorem witness_StepOfHaltedInstanceChangesNothing :
    (fresh 0x6001 |> withErr .dataOutOfRange 0x0FFF).err ≠ .noError := by decide

theorem no_key_pressed (k : Nibble) : keyPressed (fresh 0) k = false := by
  simp [keyPressed, fresh, State.withFetchWord, State.reset]

theorem pressed_withKey (j k : Nibble) (s : State) :
    keyPressed (withKey j s) k = if k = j then true else keyPressed s k := keyPressed_setKey j k true s

/-- Blocked, with no key, with the greatest key alone, and with the smallest. -/
theorem witness_KeyWaitPollTakesSmallestKey :
    (let s := blockOnKey (fresh 0) 0xF
     s.err = .noError ∧ s.wait = true ∧ ∀ k : Nibble, keyPressed s k = false) ∧
    (let s := withKey 0xF (blockOnKey (fresh 0) 0xF)
     keyPressed s 0xF = true ∧ ∀ j : Nibble, j.toNat < 0xF → keyPressed s j = false) ∧
    (let s := withKey 0 (blockOnKey (fresh 0) 0xF)
     keyPressed s 0 = true ∧ ∀ j : Nibble, j.toNat < 0 → keyPressed s j = false) := by
  refine ⟨⟨rfl, rfl, no_key_pressed⟩, ⟨by simp [pressed_withKey], fun j hj => ?_⟩, by simp [pressed_withKey], fun j hj => ?_⟩
  · have : j ≠ 0xF := by rintro rfl; exact absurd hj (by decide)
    rw [pressed_withKey, if_neg this]
    exact no_key_pressed j
  · exact absurd hj (Nat.not_lt_zero _)

theorem witness_ReturnPopsIntoPc :
    (fresh 0 |> withSp 1).sp.val = (0 : Fin 16).val + 1 ∧ (fresh 0 |> withSp 16).sp.val = (15 : Fin 16).val + 1 := by
  decide

theorem witness_ReturnOnEmptyStackHalts : (fresh 0x00EE).sp.val = 0 := by decide

theorem witness_CallPushesPostFetchPc :
    (fresh 0).sp.val = (0 : Fin 16).val ∧ (fresh 0 |> withSp 15).sp.val = (15 : Fin 16).val := by decide

theorem witness_CallOnFullStackHalts : (fresh 0 |> withSp 16).sp.val = 16 := by decide

theorem witness_ReturnUndoesCall : (fresh 0 |> withSp 15).sp.val = (15 : Fin 16).val := by decide

theorem witness_SkipTestsKey :
    (readV (fresh 0 |> withV 3 0xFF) 3).toNat % 16 = (0xF : Nibble).toNat ∧
    (readV (fresh 0 |> withV 3 0x17) 3).toNat % 16 = (7 : Nibble).toNat := by decide

/-- A skip of each of the six forms at 0xFFE, taken and not taken. -/
theorem witness_TakenSkipPassesTwoBytes :
    let s := fresh 0 |> withPc 0x0FFE |> withMem 0xFFE [0x30, 0x00]
    Ready s ∧ decodeWord (fetchWord s) = .ok (.seImm 0 0) ∧
    skipCondition (.seImm 0 0) s = some true ∧ skipCondition (.seImm 0 0) (withV 0 1 s) = some false ∧
    skipCondition (.sneImm 0 0) s = some false ∧ skipCondition (.seReg 0 1) s = some true ∧
    skipCondition (.sneReg 0 1) s = some false ∧ skipCondition (.skp 0) (withKey 0 s) = some true ∧
    skipCondition (.sknp 0) (withKey 0 s) = some false := by
  unfold Ready
  decide

theorem witness_LoadImmediateWritesNN : (0x600A#16).extractLsb' 12 4 = 0x6#4 := by decide

theorem witness_LoadIndexWritesNNN : (0xA050#16).extractLsb' 12 4 = 0xA#4 := by decide

theorem witness_AddRegistersSetsCarry : (0 : Nibble) ≠ VF ∧ (1 : Nibble) ≠ VF := by decide

theorem witness_SubtractionsSetStrictFlag : (0xE : Nibble) ≠ VF := by decide

theorem witness_ShiftsByOneSetBitOut :
    let s := fresh 0 |> withV 1 0x05 |> withV 2 0xFE
    (0x05 : Byte) = (if s.cfg.shiftUsesVY then readV s 2 else readV s 1) ∧
    (0xFE : Byte) = (if (withShiftVY s).cfg.shiftUsesVY then readV (withShiftVY s) 2 else readV (withShiftVY s) 1) ∧
    (1 : Nibble) ≠ VF := by decide

theorem witness_RandomIsMaskedDraw : (0x00 : Byte) = 0 ∧ (0xFF : Byte) ≠ 0 := by decide

theorem witness_DecimalDigitsStored : (fresh 0 |> withI 0x0FFD).I.toNat + 2 ≤ 0xFFF := by decide

theorem witness_RegistersStored :
    (fresh 0 |> withI 0x0FFF).I.toNat + (0 : Nibble).toNat ≤ 0xFFF ∧
    (fresh 0 |> withI 0x0FF0).I.toNat + (0xF : Nibble).toNat ≤ 0xFFF ∧
    (0xF : Nibble).toNat ≤ (0xF : Nibble).toNat ∧ (0 : Nibble).toNat ≤ (0 : Nibble).toNat := by decide

theorem witness_RegistersLoaded :
    (fresh 0 |> withI 0x0FFF).I.toNat + (0 : Nibble).toNat ≤ 0xFFF ∧
    (fresh 0 |> withI 0x0FF0).I.toNat + (0xF : Nibble).toNat ≤ 0xFFF := by decide

/-- Each of the four instructions with the first address past its last good one, and with the last 16-bit address. -/
theorem witness_DataRangeErrorHasNoEffect :
    ∀ p ∈ [(Instr.drw 0 1 1, (0x1000 : Word)), (.drw 0 1 0xF, 0x0FF2), (.ldB 0, 0x0FFE), (.storeRegs 0xF, 0x0FF1),
        (.storeRegs 0, 0x1000), (.loadRegs 0xF, 0x0FF1), (.loadRegs 0, 0xFFFF)],
      1 ≤ dataBytes p.1 ∧ 0xFFF < (fresh 0 |> withI p.2).I.toNat + dataBytes p.1 - 1 := by decide

theorem witness_StoreThenLoadKeepsRegisters : (fresh 0 |> withI 0x0FF0).I.toNat + (0xF : Nibble).toNat ≤ 0xFFF := by
  decide

/-- The whole register file stored at the top of memory: fetches at the first and the last stored byte, and one below the
first; and the three digits at the top of memory. -/
theorem witness_StoreIsSeenByNextFetch :
    (let s := fresh 0 |> withI 0x0FF0
     s.I.toNat + (0xF : Nibble).toNat ≤ 0xFFF ∧ (0xF : Nibble).toNat ≤ (0xF : Nibble).toNat ∧
       (0x0FF0 : Word).toNat = indexAddr s + (0 : Nibble).toNat ∧ (0x0FFF : Word).toNat = indexAddr s + (0xF : Nibble).toNat ∧
       (0x0FEF : Word).toNat + 1 = indexAddr s + (0 : Nibble).toNat) ∧
    (let s := fresh 0 |> withI 0x0FFD |> withV 0 0xEA
     s.I.toNat + 2 ≤ 0xFFF ∧
       [(readV s 0).toNat / 100, (readV s 0).toNat / 10 % 10, (readV s 0).toNat % 10][2]? = some 4 ∧
       (0x0FFF : Word).toNat = indexAddr s + 2 ∧ (0x0FFE : Word).toNat + 1 = indexAddr s + 2) := by decide

/-- A sprite of one byte 0xC0 at 0xFFF, drawn at (63, 31): it covers (63, 31), which is on in the second state, and
not (0, 0); and the sprite of no rows with `I` past memory. -/
theorem witness_DrawXorsAndReportsCollision :
    let s := fresh 0 |> withI 0x0FFF |> withMem 0xFFF [0xC0] |> withV 0 0xFF
    ((1 : Nibble).toNat = 0 ∨ s.I.toNat + (1 : Nibble).toNat - 1 ≤ 0xFFF) ∧
    ((0 : Nibble).toNat = 0 ∨ (withI 0xFFFF s).I.toNat + (0 : Nibble).toNat - 1 ≤ 0xFFF) ∧
    (∃ covers : Fin 32 → Fin 64 → Prop,
      (∀ r c, covers r c ↔ spriteCovers (fun k => memRead s.mem (s.I.toNat + k)) ((readV s 0).toNat % 64)
        ((readV s 0).toNat % 32) (1 : Nibble).toNat r.val c.val) ∧
      covers 31 63 ∧ ¬ covers 0 0 ∧ pixel s.fb 31 63 = false ∧ pixel (withPixel 31 63 s).fb 31 63 = true) := by
  refine ⟨by decide, by decide, _, fun _ _ => Iff.rfl, ?_, ?_, by decide, by decide⟩
  · unfold spriteCovers
    decide
  · unfold spriteCovers
    decide

theorem witness_DrawTwiceRestoresScreen :
    (0 : Nibble) ≠ VF ∧ (0xE : Nibble) ≠ VF ∧
    ((0xF : Nibble).toNat = 0 ∨ (fresh 0 |> withI 0x0FF1).I.toNat + (0xF : Nibble).toNat - 1 ≤ 0xFFF) := by decide

theorem witness_WaitForKeyCompletesOrBlocks :
    (keyPressed (withKey 0xF (fresh 0)) 0xF = true ∧
      ∀ j : Nibble, j.toNat < 0xF → keyPressed (withKey 0xF (fresh 0)) j = false) ∧
    (∀ k : Nibble, keyPressed (fresh 0) k = false) := by
  refine ⟨⟨by simp [pressed_withKey], fun j hj => ?_⟩, no_key_pressed⟩
  have : j ≠ 0xF := by rintro rfl; exact absurd hj (by decide)
  rw [pressed_withKey, if_neg this, no_key_pressed]

theorem witness_LoadRomCopiesVerbatim :
    ([] : List Byte).length ≤ 0xE00 ∧ (List.replicate 0xE00 (0xAA : Byte)).length ≤ 0xE00 ∧
    ([0x60, 0x0A] : List Byte)[1]? = some 0x0A :=
  ⟨by decide, le_of_eq List.length_replicate, rfl⟩

theorem witness_LoadRomRefusesLongRom : 0xE00 < (List.replicate 0xE01 (0xAA : Byte)).length :=
  lt_of_lt_of_eq (by decide) List.length_replicate.symm

theorem witness_TickTimersCountDownAndHold : (Session.mk .constructed State.reset).phase ≠ .failed := by decide

theorem witness_SetKeyWritesOneKey : (Session.mk .loaded (fresh 0)).phase ≠ .failed := by decide

theorem witness_ReadoutsChangeNothing :
    (Session.mk .constructed State.reset).phase ≠ .failed ∧ (Session.mk .loaded (fresh 0)).phase ≠ .failed := by decide

theorem witness_ResetValues :
    (0 < 80 ∧ 79 < 80) ∧ (¬ (0x050 ≤ 0x04F ∧ 0x04F < 0x0A0)) ∧ (¬ (0x050 ≤ 0x0A0 ∧ 0x0A0 < 0x0A0)) ∧
    (fresh 0x6001).cfg = defaultConfig := by decide

/-- A move that is refused for each of the three reasons, and one that is not. -/
theorem witness_HostDutiesGateMoves :
    hostMove .step ⟨.constructed, State.reset⟩ = none ∧ hostMove (.loadROM []) ⟨.loaded, fresh 0⟩ = none ∧
    hostMove .tickTimers ⟨.failed, State.reset⟩ = none ∧ (hostMove .reset ⟨.failed, State.reset⟩).isSome = true := by
  decide

/-- A state in the middle of a run: a return address on the stack, an unrecognized opcode recorded. -/
def midRun : State :=
  { (fresh 0x00EE |> withSp 1) with stack := (fresh 0).stack.set 0 0x1000, diag := [0x8128], IR := 0x8128 }

/-- The invariant holds of a state that is ready. -/
theorem witness_StepKeepsInvariant : Inv midRun ∧ step midRun = .next (after midRun) where
  left := {
    mem_wf := by decide
    pc_le := by decide
    return_le := by decide
    diag_unrecognized := fun w h => ⟨.unrecognizedGroup8, by
      have : w = 0x8128 := by simpa [midRun] using h
      subst this
      decide⟩
    blocked := fun h => by cases h
    no_error := fun _ => rfl
    stack_overflow := fun h => by cases h
    stack_underflow := fun h => by cases h
    fetch_out_of_range := fun h => by cases h
    data_out_of_range := fun h => by cases h }
  right := rfl

/-- The clauses of the invariant about a blocked state and about each error code can be met: by the state one Step after
the opcode that blocks or fails. -/
theorem witness_invariant_clauses :
    (let s := after (fresh 0xFF0A)
     s.wait = true ∧ s.err = .noError ∧ s.IR = encode (.ldVxK s.waitX)) ∧
    (let s := after (fresh 0x2FFF |> withSp 16)
     s.err = .stackOverflow ∧ s.sp.val = 16 ∧ s.errInfo = s.IR ∧ s.IR = encode (.call 0xFFF)) ∧
    (let s := after (fresh 0x00EE)
     s.err = .stackUnderflow ∧ s.sp.val = 0 ∧ s.errInfo = s.IR ∧ s.IR = encode .ret) ∧
    (let s := after (fresh 0 |> withPc 0x0FFF)
     s.err = .fetchOutOfRange ∧ s.errInfo = s.pc ∧ 0x0FFE < s.pc.toNat) ∧
    (let s := after (fresh 0xF155 |> withI 0x0FFF)
     s.err = .dataOutOfRange ∧ s.errInfo = s.I ∧ decodeWord s.IR = .ok (.storeRegs 1) ∧
       1 ≤ dataBytes (.storeRegs 1) ∧ 0xFFF < s.I.toNat + dataBytes (.storeRegs 1) - 1) := by decide

/-- A session with the invariant that no run need reach, a move of it, and a sequence of moves of it with a refused ROM. -/
theorem witness_SessionsKeepInvariant :
    SessionInv ⟨.loaded, midRun⟩ ∧ (hostMove .step ⟨.loaded, midRun⟩).isSome = true ∧
    (hostRun [.setKey 7 true, .tickTimers, .step, .reset, .loadROM [0x60, 0x0A], .step, .getDiagnostics]
      ⟨.loaded, midRun⟩).isSome = true :=
  ⟨⟨witness_StepKeepsInvariant.1, fun h => absurd rfl h⟩, by decide, by decide⟩

/-- A halted session has each of the moves, in the phase that allows it. -/
theorem witness_ErrorLatchesUntilReset :
    let s := after (fresh 0x00EE)
    s.err ≠ .noError ∧ (hostMove .step ⟨.loaded, s⟩).isSome = true ∧ (hostMove .tickTimers ⟨.loaded, s⟩).isSome = true ∧
    (hostMove (.setKey 0xF true) ⟨.loaded, s⟩).isSome = true ∧
    (hostMove (.loadROM [0x60]) ⟨.constructed, s⟩).isSome = true ∧
    (hostMove .getFramebuffer ⟨.loaded, s⟩).isSome = true ∧ (hostMove .getDiagnostics ⟨.loaded, s⟩).isSome = true ∧
    HostOp.step ≠ .reset ∧ (hostMove .reset ⟨.failed, s⟩).isSome = true := by decide


/-- Each storing, pushing, popping and drawing instruction at the end of the range where it raises no error, and just past
it. -/
theorem witness_EachComponentHasItsWriters :
    (∀ p ∈ [(Instr.ldB 0, (0x0FFD : Word)), (.storeRegs 0xF, 0x0FF0), (.loadRegs 0, 0x0FFF), (.drw 0 1 0xF, 0x0FF1),
        (.drw 0 1 0, 0xFFFF)], ¬ raises p.1 (fresh 0 |> withI p.2)) ∧
    (∀ p ∈ [(Instr.ldB 0, (0x0FFE : Word)), (.storeRegs 0xF, 0x0FF1), (.loadRegs 0, 0x1000), (.drw 0 1 0xF, 0x0FF2)],
      raises p.1 (fresh 0 |> withI p.2)) ∧
    raises (.call 0x300) (fresh 0 |> withSp 16) ∧ ¬ raises (.call 0x300) (fresh 0 |> withSp 15) ∧
    raises .ret (fresh 0) ∧ ¬ raises .ret (fresh 0 |> withSp 1) ∧
    (∃ t, exec (.ldB 0) (fresh 0 |> withI 0x0FFD) = .next t) ∧ (∃ t, exec (.call 0x300) (fresh 0) = .next t) ∧
    (∃ t, exec (.drw 0 1 5) (fresh 0 |> withI 0x0050) = .next t) :=
  ⟨by simp [raises, dataBytes, fresh, withI], by simp [raises, dataBytes, fresh, withI], rfl,
    by simp [raises, withSp], rfl, by simp [raises, withSp], ⟨_, rfl⟩, ⟨_, rfl⟩, ⟨_, rfl⟩⟩

/-- A Step that appends its opcode, and one that appends nothing. -/
theorem witness_DiagnosticsOnlyGrow :
    step (fresh 0x8128) = .next (after (fresh 0x8128)) ∧
    (after (fresh 0x8128)).diag = (fresh 0x8128).diag ++ [(after (fresh 0x8128)).IR] ∧
    step (fresh 0x6001) = .next (after (fresh 0x6001)) ∧ (after (fresh 0x6001)).diag = (fresh 0x6001).diag :=
  ⟨rfl, rfl, rfl, rfl⟩

theorem witness_SafeRunStartsWithoutError :
    SafeRun 1 (fresh 0x6001) (after (fresh 0x6001)) ∧ SafeRun 0 (fresh 0x6001) (fresh 0x6001) :=
  ⟨⟨_, rfl, rfl, by decide⟩, rfl, by decide⟩

theorem witness_PlacedWordRunsNext :
    decodeWord 0x6001 = .ok (.ldImm 0 1) ∧ decodeWord 0x8128 = .error .unrecognizedGroup8 ∧
    (fresh 0 |> withPc 0x0FFE).pc.toNat ≤ 0x0FFE ∧ ¬ (fresh 0 |> withPc 0x0FFF).pc.toNat ≤ 0x0FFE := by decide

end Sys2Proof.Tests
end

section
/-! The state's family of statements (spec 10_state.md): what each instruction writes, what a Step keeps, and the state after reset. -/

namespace Sys2Proof.Machine

/-! ### Raising an error (60_exceptions.md R210, R213) -/

/-- The error an instruction latches in a state where it `raises` (R210). -/
def raisedError (i : Instr) : ErrCode :=
  match i with
  | .call _ => .stackOverflow
  | .ret => .stackUnderflow
  | _ => .dataOutOfRange

/-- What `err_info` then records: the opcode for a stack error, `I` for a data range (R211). -/
def raisedInfo (i : Instr) (s : State) : Word :=
  match i with
  | .call _ | .ret => s.IR
  | _ => s.I

/-- Where an instruction raises an error, latching it is all it does. -/
theorem exec_of_raises {i : Instr} {s : State} (hr : raises i s) :
    exec i s = .next (raise s (raisedError i) (raisedInfo i s)) := by
  cases i
  case call nnn => exact execCall_full nnn s hr
  case ret => exact execRet_empty s hr
  case drw | ldB | storeRegs | loadRegs =>
    obtain ⟨hn, hpast⟩ := hr
    exact congrArg Host.Outcome.next (withDataRange_error _ hn hpast)
  all_goals simp [raises, dataBytes] at hr

/-- A data access that is not past the end of memory answers its effect (R43). -/
theorem eq_effect_of_not_past {s t effect : State} {n : Nat} (hr : ¬ (1 ≤ n ∧ 0xFFF < s.I.toNat + n - 1))
    (h : (.next (withDataRange s n effect) : Host.Outcome State Fault Refusal) = .next t) : t = effect := by
  rw [withDataRange_ok effect (by omega)] at h
  exact (Host.Outcome.next.inj h).symm

/-! ### Inversion of the instructions that branch -/

/-- RET that raises no error pops into `pc` (R100). -/
theorem exec_ret_inv {s t : State} (hr : ¬ raises .ret s) (h : exec .ret s = .next t) :
    ∃ hsp : 0 < s.sp.val, t = setPc (popStack s hsp).2 (popStack s hsp).1 := by
  have hsp : 0 < s.sp.val := Nat.pos_of_ne_zero hr
  exact ⟨hsp, (Host.Outcome.next.inj ((execRet_pop s hsp).symm.trans h)).symm⟩

/-- CALL that raises no error pushes the post-fetch `pc` and jumps (R102). -/
theorem exec_call_inv {nnn : Addr} {s t : State} (hr : ¬ raises (.call nnn) s) (h : exec (.call nnn) s = .next t) :
    ∃ hsp : s.sp.val < 16, t = setPc (pushStack s s.pc hsp) (addrValue nnn) := by
  have hsp : s.sp.val < 16 := Nat.lt_of_le_of_ne (Nat.le_of_lt_succ s.sp.isLt) hr
  exact ⟨hsp, (Host.Outcome.next.inj ((execCall_push nnn s hsp).symm.trans h)).symm⟩

/-- LD VX,K writes the key that is down, or blocks where none is (R173). -/
theorem exec_ldVxK_inv {x : Nibble} {s t : State} (h : exec (.ldVxK x) s = .next t) :
    (∃ k, keyPressed s k = true ∧ t = writeV s x (keyValue k)) ∨
    ((∀ k, keyPressed s k = false) ∧ t = blockOnKey s x) := by
  simp only [exec, execLdVxK] at h
  cases hk : lowestKey s with
  | some k =>
    rw [hk] at h; cases h
    exact .inl ⟨k, ((lowestKey_eq_some s k).1 hk).1, rfl⟩
  | none =>
    rw [hk] at h; cases h
    exact .inr ⟨(lowestKey_eq_none s).1 hk, rfl⟩

/-! ### The writers of each component -/

/-- Drawing a sprite changes no pixel it does not cover (44_display.md R161). -/
theorem drawSprite_frame (s : State) (row : Nat → Byte) (x0 y0 n : Nat) :
    ChangesOnly (fun c => ∃ y x, c = .pixel y x ∧ spriteCovers row x0 y0 n y.val x.val) s
      (setFb s (drawSprite row x0 y0 n s.fb).1) := by
  intro c hc
  by_cases hpx : ∃ y x, c = .pixel y x
  · obtain ⟨y, x, rfl⟩ := hpx
    have hcov : ¬ spriteCovers row x0 y0 n y.val x.val := fun h => hc ⟨y, x, rfl, h⟩
    have hdraw := (drawSprite_spec row x0 y0 s.fb n).1 y x
    simp only [hcov, not_false_eq_true, iff_true] at hdraw
    exact Bool.eq_iff_iff.2 hdraw
  · exact setFb_frame s _ c hpx

/-- An instruction that raises no error writes only what the prose of 10_state.md lets it write. -/
theorem exec_frame_of_not_raises {i : Instr} {s t : State} (hr : ¬ raises i s) (h : exec i s = .next t) :
    ChangesOnly (mayWriteNormally i s) s t := by
  cases i
  case cls => cases h; exact (setFb_frame s _).mono (by rintro _ ⟨y, x, rfl⟩; trivial)
  case ret =>
    obtain ⟨hsp, rfl⟩ := exec_ret_inv hr h
    exact ((popStack_frame s hsp).mono (by rintro _ rfl; trivial)).trans
      ((setPc_frame _ _).mono (by rintro _ rfl; trivial))
  case call nnn =>
    obtain ⟨hsp, rfl⟩ := exec_call_inv hr h
    refine ((pushStack_frame s s.pc hsp).mono ?_).trans ((setPc_frame _ _).mono (by rintro _ rfl; trivial))
    rintro _ (rfl | rfl)
    · rfl
    · trivial
  case jp | jpV0 => cases h; exact (setPc_frame s _).mono (by rintro _ rfl; trivial)
  case seImm | sneImm | seReg | sneReg | skp | sknp =>
    cases h; exact (skipIf_frame _ s).mono (by rintro _ rfl; trivial)
  case ldImm | addImm | ldReg | orReg | andReg | xorReg | ldVxDt =>
    cases h; exact (writeV_frame s _ _).mono (by rintro _ rfl; rfl)
  case addReg | subReg | shr | subnReg | shl =>
    cases h
    refine (writeResultThenFlag_frame s _ _ _).mono ?_
    rintro _ (rfl | rfl)
    · exact .inl rfl
    · exact .inr rfl
  case rnd =>
    cases h
    exact ((draw8_frame s).mono (by rintro _ rfl; trivial)).trans
      ((writeV_frame _ _ _).mono (by rintro _ rfl; rfl))
  case ldI | addI | ldF => cases h; exact (setI_frame s _).mono (by rintro _ rfl; trivial)
  case ldDtVx => cases h; exact (setDT_frame s _).mono (by rintro _ rfl; trivial)
  case ldStVx => cases h; exact (setST_frame s _).mono (by rintro _ rfl; trivial)
  case ldVxK x =>
    obtain ⟨k, hk, rfl⟩ | ⟨hnone, rfl⟩ := exec_ldVxK_inv h
    · exact (writeV_frame s x _).mono (by rintro _ rfl; exact ⟨rfl, k, hk⟩)
    · exact (blockOnKey_frame s x).mono (by rintro _ (rfl | rfl) <;> exact hnone)
  case drw x y n =>
    obtain rfl := eq_effect_of_not_past hr h
    exact ((drawSprite_frame s _ _ _ _).mono (by rintro _ ⟨py, px, rfl, hcov⟩; exact hcov)).trans
      ((writeV_frame _ VF _).mono (by rintro _ rfl; rfl))
  case ldB x =>
    obtain rfl := eq_effect_of_not_past hr h
    exact (setMem_storeBytes_frame s _ _).mono (by rintro _ ⟨k, hk, rfl⟩; exact ⟨k, hk, rfl⟩)
  case storeRegs x =>
    obtain rfl := eq_effect_of_not_past hr h
    refine (setMem_storeBytes_frame s _ _).mono ?_
    rintro _ ⟨k, hk, rfl⟩
    exact ⟨k, by simpa [dataBytes] using hk, rfl⟩
  case loadRegs x =>
    obtain rfl := eq_effect_of_not_past hr h
    exact (loadV_frame s x _).mono (by rintro _ ⟨k, hk, rfl⟩; exact hk)

/-- The frame of every instruction in every state. -/
theorem exec_frame {i : Instr} {s t : State} (h : exec i s = .next t) : ChangesOnly (mayWrite i s) s t := by
  by_cases hr : raises i s
  · cases (exec_of_raises hr).symm.trans h
    exact (raise_frame s _ _).mono fun _ hc => .inl ⟨hr, hc⟩
  · exact (exec_frame_of_not_raises hr h).mono fun _ hc => .inr ⟨hr, hc⟩

/-- Settles O57: the frame of the raise where the instruction raises an error, and elsewhere the frame of the shared
operations its meaning calls. -/
theorem eachComponentHasItsWriters : Obligations.EachComponentHasItsWriters :=
  fun _ _ _ h => exec_frame h

/-! ### The list of unrecognized opcodes (10_state.md R24) -/

/-- No instruction writes `diag`. -/
theorem exec_diag {i : Instr} {s t : State} (h : exec i s = .next t) : t.diag = s.diag :=
  exec_frame h .diag (by simp [mayWrite, mayWriteNormally])

theorem pollKeys_diag (s : State) : (pollKeys s).diag = s.diag := by
  obtain ⟨k, -, hp⟩ | ⟨-, hp⟩ := pollKeys_cases s
  · rw [hp]; rfl
  · rw [hp]

/-- Settles O58: of the ways a Step can go, only the recording of an unrecognized word writes `diag`. -/
theorem diagnosticsOnlyGrow : Obligations.DiagnosticsOnlyGrow := by
  intro s t h
  obtain ⟨-, hs⟩ | ⟨-, -, hs⟩ | ⟨-, -, -, hs⟩ | ⟨-, -, -, -, hs⟩ | ⟨-, -, -, i, -, hs⟩ :=
    step_cases s <;>
    rw [hs] at h
  · cases h; exact .inl rfl
  · cases h; exact .inl (pollKeys_diag s)
  · cases h; exact .inl rfl
  · cases h; exact .inr rfl
  · exact .inl ((exec_diag h).trans (afterFetch_diag s))

/-! ### The state after reset (10_state.md R28, 70_reset_and_hazards.md R240) -/

/-- The default font is what memory holds at reset anyway, so constructing with it lists no byte. -/
theorem construct_defaultConfig : construct defaultConfig = State.reset := by decide

/-- Memory after construction: the given font at 0x050 to 0x09F, the reset contents elsewhere. -/
theorem memRead_construct (cfg : Config) (a : Nat) :
    memRead (construct cfg).mem a =
      if h : 0x050 ≤ a ∧ a < 0x0A0 then cfg.font[a - 0x050]'(by omega) else resetByte a := by
  simp [construct, memRead_storeBytes, memRead]

theorem construct_mem_wf (cfg : Config) : Memory.wf (construct cfg).mem = true :=
  storeBytes_wf cfg.font.toList (by simp) rfl

/-- A later reset is a construction with the same parameters, but for the count of draws (R240). -/
theorem hostReset_frame (s : State) : ChangesOnly (fun c => c = .draws) (construct s.cfg) (hostReset s) := by
  intro c hc
  cases c
  case draws => exact absurd rfl hc
  all_goals rfl

/-- Settles O51: memory by reading after the store of the font, everything else from the fields of `State.reset`. -/
theorem resetValues : Obligations.ResetValues := by
  refine ⟨construct_defaultConfig.symm, fun h => rfl, fun cfg => ⟨rfl, fun a ha => ?font, fun a ha => ?zero,
    fun x => ?V, rfl, rfl, rfl, rfl, fun k => ?stack, fun y x => ?fb, fun k => ?key, rfl, rfl, rfl, rfl, rfl, rfl,
    fun s hs => ⟨?later, rfl⟩⟩⟩
  case font =>
    have hin : 0x050 ≤ 0x050 + a ∧ 0x050 + a < 0x0A0 := by omega
    simp [memRead_construct, hin]
  case zero => rw [memRead_construct, dif_neg ha, resetByte, dif_neg ha]
  case V => simp [readV, construct, State.reset]
  case stack => simp [construct, State.reset]
  case fb => simp [pixel, construct, State.reset]
  case key => simp [keyPressed, construct, State.reset]
  case later => exact hs ▸ hostReset_frame s

/-! ### The invariant where no error is latched -/

/-- While no error is latched, the invariant's clauses about the error record say no more than `err_info = 0`. -/
theorem Inv.of_noError {s : State} (mem_wf : Memory.wf s.mem = true) (pc_le : s.pc.toNat ≤ 0x10FE)
    (return_le : ∀ k : Fin 16, k.val < s.sp.val → (s.stack[k.val]).toNat ≤ 0x1000)
    (diag_unrecognized : ∀ w ∈ s.diag, ∃ r, decodeWord w = .error r)
    (blocked : s.wait = true → s.IR = encode (.ldVxK s.waitX))
    (err : s.err = .noError) (errInfo : s.errInfo = 0) : Inv s where
  mem_wf := mem_wf
  pc_le := pc_le
  return_le := return_le
  diag_unrecognized := diag_unrecognized
  blocked := fun h => ⟨err, blocked h⟩
  no_error := fun _ => errInfo
  stack_overflow := fun h => by simp [err] at h
  stack_underflow := fun h => by simp [err] at h
  fetch_out_of_range := fun h => by simp [err] at h
  data_out_of_range := fun h => by simp [err] at h

theorem construct_inv (cfg : Config) : Inv (construct cfg) :=
  .of_noError (construct_mem_wf cfg) (show (0x0200 : Word).toNat ≤ 0x10FE by decide)
    (fun _ h => absurd h (Nat.not_lt_zero _)) (fun _ h => by cases h) (fun h => by cases h) rfl rfl

/-- Settles O53: the font is stored inside memory, and no error, no blocked Step and no stack entry is there yet. -/
theorem resetMeetsInvariant : Obligations.ResetMeetsInvariant :=
  ⟨construct_defaultConfig ▸ construct_inv defaultConfig, construct_inv⟩

/-! ### A decoded word is its instruction's canonical word -/

/-- The mask of groups 5 and 9 (R66): bits 3-0 are not examined. -/
theorem and_FFF0 (g x y n : Nibble) : formatXYN g x y n &&& 0xFFF0#16 = formatXYN g x y 0 := by
  have h := formatXYN_and g 0xF#4 x 0xF#4 y 0xF#4 n 0#4
  have hones : ∀ z : Nibble, z &&& 0xF#4 = z := fun _ => BitVec.and_allOnes
  rwa [hones, hones, hones, BitVec.and_zero] at h

/-- Encode undoes decode, but for the bits that R66 leaves unexamined: each group puts back the fields it read. -/
theorem encode_of_decodeWord {op : Word} {i : Instr} (h : decodeWord op = .ok i) :
    encode i = op &&& examinedBits i := by
  have full : ∀ {j : Instr}, encode j = op ∧ examinedBits j = 0xFFFF#16 → encode j = op &&& examinedBits j := by
    rintro j ⟨he, hb⟩
    rw [he, hb]
    exact BitVec.and_allOnes.symm
  have hNNN := word_eq_formatNNN op
  have hXNN := word_eq_formatXNN op
  have hXYN := word_eq_formatXYN op
  have hXY : op &&& 0xFFF0#16 = formatXYN (fieldG op) (fieldX op) (fieldY op) 0 := by
    rw [← and_FFF0 _ _ _ (fieldN op), hXYN]
  obtain hg | hg | hg | hg | hg | hg | hg | hg | hg | hg | hg | hg | hg | hg | hg | hg := nibble_cases (fieldG op) <;>
    simp only [decodeWord, hg] at h hNNN hXNN hXYN hXY
  · exact full (decodeGroup0_ok h)
  · cases h; exact full ⟨hNNN, rfl⟩
  · cases h; exact full ⟨hNNN, rfl⟩
  · cases h; exact full ⟨hXNN, rfl⟩
  · cases h; exact full ⟨hXNN, rfl⟩
  · cases h; exact hXY.symm
  · cases h; exact full ⟨hXNN, rfl⟩
  · cases h; exact full ⟨hXNN, rfl⟩
  · exact full ((decodeGroup8_ok h).imp_left fun he => he.trans hXYN)
  · cases h; exact hXY.symm
  · cases h; exact full ⟨hNNN, rfl⟩
  · cases h; exact full ⟨hNNN, rfl⟩
  · cases h; exact full ⟨hXNN, rfl⟩
  · cases h; exact full ⟨hXYN, rfl⟩
  · exact full ((decodeGroupE_ok h).imp_left fun he => he.trans hXNN)
  · exact full ((decodeGroupF_ok h).imp_left fun he => he.trans hXNN)

/-- Where every bit is examined, the word is the canonical one. -/
theorem eq_encode_of_decodeWord {op : Word} {i : Instr} (h : decodeWord op = .ok i)
    (hb : examinedBits i = 0xFFFF#16) : op = encode i := by
  rw [encode_of_decodeWord h, hb]
  exact BitVec.and_allOnes.symm

/-! ### What an instruction does to the parts of the invariant -/

/-- An instruction keeps memory, or stores bytes that lie inside the 4096 cells (20_memory.md R43, R44). -/
theorem exec_mem {i : Instr} {s t : State} (h : exec i s = .next t) :
    t.mem = s.mem ∨
    ∃ bs : List Byte, indexAddr s + bs.length ≤ 4096 ∧ t.mem = storeBytes s.mem (indexAddr s) bs := by
  by_cases hr : raises i s
  · cases (exec_of_raises hr).symm.trans h
    exact .inl rfl
  cases i
  case ldB x =>
    obtain rfl := eq_effect_of_not_past hr h
    simp only [raises, dataBytes] at hr
    exact .inr ⟨bcdDigits (readV s x), by simp [bcdDigits, indexAddr]; omega, rfl⟩
  case storeRegs x =>
    obtain rfl := eq_effect_of_not_past hr h
    simp only [raises, dataBytes] at hr
    exact .inr ⟨registersUpTo s x, by simp [indexAddr]; omega, rfl⟩
  case drw | loadRegs => obtain rfl := eq_effect_of_not_past hr h; exact .inl rfl
  case ret => obtain ⟨hsp, rfl⟩ := exec_ret_inv hr h; exact .inl rfl
  case call => obtain ⟨hsp, rfl⟩ := exec_call_inv hr h; exact .inl rfl
  case ldVxK => obtain ⟨k, -, rfl⟩ | ⟨-, rfl⟩ := exec_ldVxK_inv h <;> exact .inl rfl
  case seImm | sneImm | seReg | sneReg | skp | sknp => cases h; exact .inl (skipIf_mem _ s)
  all_goals cases h; exact .inl rfl

theorem exec_mem_wf {i : Instr} {s t : State} (h : exec i s = .next t) (hw : Memory.wf s.mem = true) :
    Memory.wf t.mem = true := by
  obtain hm | ⟨bs, hfit, hm⟩ := exec_mem h <;> rw [hm]
  · exact hw
  · exact storeBytes_wf bs hfit hw

/-- Every valid stack entry is at most 0x1000, as a return address that CALL pushed is (R13). -/
def ReturnAddressesOk (s : State) : Prop :=
  ∀ k : Fin 16, k.val < s.sp.val → (s.stack[k.val]).toNat ≤ 0x1000

/-- From a `pc` that a fetch has left, every jump, skip and return stays at or below 0x10FE (R13). -/
theorem exec_pc_le {i : Instr} {s t : State} (hpc : s.pc.toNat ≤ 0x1000) (hret : ReturnAddressesOk s)
    (hr : ¬ raises i s) (h : exec i s = .next t) : t.pc.toNat ≤ 0x10FE := by
  have skip : ∀ c : Bool, (skipIf c s).pc.toNat ≤ 0x10FE := by
    intro c
    cases c <;> simp <;> omega
  cases i
  case jp nnn =>
    cases h
    have := addr_lt nnn
    simp only [setPc_pc, toNat_addrValue]
    omega
  case jpV0 nnn =>
    cases h
    have := addr_lt nnn
    have := byte_lt (readV s 0)
    simp only [setPc_pc, BitVec.toNat_add, toNat_wordOfV, toNat_addrValue]
    omega
  case call nnn =>
    obtain ⟨hsp, rfl⟩ := exec_call_inv hr h
    have := addr_lt nnn
    simp only [setPc_pc, toNat_addrValue]
    omega
  case ret =>
    obtain ⟨hsp, rfl⟩ := exec_ret_inv hr h
    have htop := hret ⟨s.sp.val - 1, by omega⟩ (Nat.sub_lt hsp Nat.one_pos)
    exact Nat.le_trans htop (by decide)
  case seImm | sneImm | seReg | sneReg | skp | sknp => cases h; exact skip _
  all_goals
    have hkeep : t.pc = s.pc := exec_frame_of_not_raises hr h .pc id
    rw [hkeep]
    omega

/-- CALL pushes the post-fetch `pc`; no other instruction adds a stack entry or changes one. -/
theorem exec_returnAddressesOk {i : Instr} {s t : State} (hpc : s.pc.toNat ≤ 0x1000) (hret : ReturnAddressesOk s)
    (hr : ¬ raises i s) (h : exec i s = .next t) : ReturnAddressesOk t := by
  cases i
  case call nnn =>
    obtain ⟨hsp, rfl⟩ := exec_call_inv hr h
    intro k hk
    by_cases he : s.sp.val = k.val
    · simpa [he] using hpc
    · have hk' : k.val < s.sp.val := by simp at hk; omega
      simpa [he] using hret k hk'
  case ret =>
    obtain ⟨hsp, rfl⟩ := exec_ret_inv hr h
    intro k hk
    exact hret k (Nat.lt_of_lt_of_le hk (Nat.sub_le _ _))
  all_goals
    have hframe := exec_frame_of_not_raises hr h
    have hsp : t.sp = s.sp := hframe .sp id
    intro k hk
    have hentry : t.stack[k.val] = s.stack[k.val] := hframe (.stackEntry k) id
    exact hentry ▸ hret k (hsp ▸ hk)

/-- Only LD VX,K blocks, and what it blocks with is its own X field (R173). -/
theorem exec_blocked {i : Instr} {s t : State} (hwait : s.wait = false) (hd : decodeWord s.IR = .ok i)
    (hr : ¬ raises i s) (h : exec i s = .next t) : t.wait = true → t.IR = encode (.ldVxK t.waitX) := by
  intro ht
  cases i
  case ldVxK x =>
    obtain ⟨k, -, rfl⟩ | ⟨-, rfl⟩ := exec_ldVxK_inv h
    · simp [hwait] at ht
    · exact eq_encode_of_decodeWord hd rfl
  all_goals
    have hkeep : t.wait = s.wait := exec_frame_of_not_raises hr h .wait id
    simp [hkeep, hwait] at ht

/-! ### The invariant under the ways a Step can go -/

/-- What the invariant asks of the error record once `e` is latched with `info`. -/
def RecordOk (s : State) (e : ErrCode) (info : Word) : Prop :=
  match e with
  | .noError => False
  | .stackOverflow => s.sp.val = 16 ∧ info = s.IR ∧ ∃ nnn, s.IR = encode (.call nnn)
  | .stackUnderflow => s.sp.val = 0 ∧ info = s.IR ∧ s.IR = encode .ret
  | .fetchOutOfRange => info = s.pc ∧ 0x0FFE < s.pc.toNat
  | .dataOutOfRange => info = s.I ∧
      ∃ i, decodeWord s.IR = .ok i ∧ 1 ≤ dataBytes i ∧ 0xFFF < s.I.toNat + dataBytes i - 1

/-- Raising an error with a precise record keeps the invariant: only `err` and `err_info` change (R213). -/
theorem Inv.raise {s : State} {e : ErrCode} {info : Word} (hi : Inv s) (hwait : s.wait = false)
    (hrec : RecordOk s e info) : Inv (Machine.raise s e info) where
  mem_wf := hi.mem_wf
  pc_le := hi.pc_le
  return_le := hi.return_le
  diag_unrecognized := hi.diag_unrecognized
  blocked := fun h => by simp [hwait] at h
  no_error := fun h => by cases h; exact hrec.elim
  stack_overflow := fun h => by cases h; exact hrec
  stack_underflow := fun h => by cases h; exact hrec
  fetch_out_of_range := fun h => by cases h; exact hrec
  data_out_of_range := fun h => by cases h; exact hrec

/-- An instruction that raises an error leaves a precise record: its own opcode is still in `IR` (R211). -/
theorem recordOk_of_raises {i : Instr} {s : State} (hd : decodeWord s.IR = .ok i) (hr : raises i s) :
    RecordOk s (raisedError i) (raisedInfo i s) := by
  cases i
  case call nnn => exact ⟨hr, rfl, nnn, eq_encode_of_decodeWord hd rfl⟩
  case ret => exact ⟨hr, rfl, eq_encode_of_decodeWord hd rfl⟩
  all_goals exact ⟨rfl, _, hd, hr⟩

theorem Inv.exec {i : Instr} {s t : State} (hi : Inv s) (herr : s.err = .noError) (hwait : s.wait = false)
    (hpc : s.pc.toNat ≤ 0x1000) (hd : decodeWord s.IR = .ok i) (h : Machine.exec i s = .next t) : Inv t := by
  by_cases hr : raises i s
  · cases (exec_of_raises hr).symm.trans h
    exact hi.raise hwait (recordOk_of_raises hd hr)
  · have hframe := exec_frame_of_not_raises hr h
    have herr' : t.err = s.err := hframe .err id
    have hinfo : t.errInfo = s.errInfo := hframe .errInfo id
    exact .of_noError (exec_mem_wf h hi.mem_wf) (exec_pc_le hpc hi.return_le hr h)
      (exec_returnAddressesOk hpc hi.return_le hr h) (exec_diag h ▸ hi.diag_unrecognized)
      (exec_blocked hwait hd hr h) (herr'.trans herr) (hinfo.trans (hi.no_error herr))

/-- The fetch of a ready state moves `pc` to at most 0x1000 and leaves the record of no error. -/
theorem Inv.afterFetch {s : State} (hi : Inv s) (herr : s.err = .noError) (hwait : s.wait = false)
    (hpc : s.pc.toNat ≤ 0x0FFE) : Inv (Machine.afterFetch s) :=
  .of_noError hi.mem_wf (by rw [afterFetch_toNat_pc hpc]; omega) hi.return_le hi.diag_unrecognized
    (fun h => by simp [hwait] at h) herr (hi.no_error herr)

theorem Inv.recordUnrecognized {s : State} {w : Word} {r : Reject} (hi : Inv s) (hw : decodeWord w = .error r) :
    Inv (Machine.recordUnrecognized s w) :=
  { hi with
    diag_unrecognized := fun v hv => by
      obtain hv | hv := List.mem_append.1 hv
      · exact hi.diag_unrecognized v hv
      · exact ⟨r, List.mem_singleton.1 hv ▸ hw⟩ }

/-- The key-wait poll ends the blocked state or changes nothing (R81). -/
theorem Inv.pollKeys {s : State} (hi : Inv s) (herr : s.err = .noError) : Inv (Machine.pollKeys s) := by
  obtain ⟨k, -, hp⟩ | ⟨-, hp⟩ := pollKeys_cases s <;> rw [hp]
  · exact .of_noError hi.mem_wf hi.pc_le hi.return_le hi.diag_unrecognized (fun h => by cases h) herr
      (hi.no_error herr)
  · exact hi

/-- Settles O54, by the ways a Step can go: a halted Step keeps the state, a blocked one polls, and a fetch ends in the
guard's error, the recording of an unrecognized word, or an instruction on the state after the fetch. -/
theorem stepKeepsInvariant : Obligations.StepKeepsInvariant := by
  intro s t hi h
  obtain ⟨-, hs⟩ | ⟨herr, -, hs⟩ | ⟨-, hwait, hpc, hs⟩ | ⟨herr, hwait, hpc, ⟨r, hd⟩, hs⟩ |
    ⟨herr, hwait, hpc, i, hd, hs⟩ := step_cases s <;> rw [hs] at h
  · cases h; exact hi
  · cases h; exact hi.pollKeys herr
  · cases h; exact hi.raise hwait ⟨rfl, hpc⟩
  · cases h; exact (hi.afterFetch herr hwait hpc).recordUnrecognized hd
  · have hpc' : (Machine.afterFetch s).pc.toNat ≤ 0x1000 := by rw [afterFetch_toNat_pc hpc]; omega
    exact (hi.afterFetch herr hwait hpc).exec herr hwait hpc' hd h

end Sys2Proof.Machine
end

section
/-! The memory's family of statements (spec 20_memory.md): the word a Step fetches and returns, an access past the end of memory, and what a fetch reads after a store. -/

/-! ### The bytes of a word put together (20_memory.md R42) -/

namespace Sys2Proof

@[simp] theorem highByte_wordOfBytes (hi lo : Byte) : highByte (wordOfBytes hi lo) = hi :=
  extract_append_high hi lo

@[simp] theorem lowByte_wordOfBytes (hi lo : Byte) : lowByte (wordOfBytes hi lo) = lo :=
  (extract_append_low hi lo 0 8 (by decide)).trans (extract_all lo)

end Sys2Proof

namespace Sys2Proof.Machine

/-! ### The Step that fetches (40_step_cycle.md R82, R86) -/

/-- Every instruction has a next state: the one a fatal error leaves is one too (R213). -/
theorem exec_next (i : Instr) (s : State) : ∃ t, exec i s = .next t := by
  by_cases hr : raises i s
  · exact ⟨_, exec_of_raises hr⟩
  cases i
  case ret => exact ⟨_, execRet_pop s (Nat.pos_of_ne_zero hr)⟩
  case call nnn => exact ⟨_, execCall_push nnn s (Nat.lt_of_le_of_ne (Nat.le_of_lt_succ s.sp.isLt) hr)⟩
  case ldVxK x =>
    simp only [exec, execLdVxK]
    cases lowestKey s <;> exact ⟨_, rfl⟩
  all_goals exact ⟨_, rfl⟩

/-- No instruction writes `IR` (10_state.md R23). -/
theorem exec_IR {i : Instr} {s t : State} (h : exec i s = .next t) : t.IR = s.IR :=
  exec_frame h .IR (by simp [mayWrite, mayWriteNormally])

/-- A Step that fetches leaves the fetched word in `IR`, whether or not the word decodes. -/
theorem step_of_ready {s : State} (hs : Ready s) : ∃ t, step s = .next t ∧ t.IR = fetchWord s := by
  obtain ⟨herr, hwait, hpc⟩ := hs
  obtain ⟨hhalt, -⟩ | ⟨-, hblock, -⟩ | ⟨-, -, hpast, -⟩ | ⟨-, -, -, -, hstep⟩ | ⟨-, -, -, i, -, hstep⟩ := step_cases s
  · exact absurd herr hhalt
  · simp [hwait] at hblock
  · omega
  · exact ⟨_, hstep, rfl⟩
  · obtain ⟨t, ht⟩ := exec_next i (afterFetch s)
    exact ⟨t, hstep.trans ht, exec_IR ht⟩

/-- In phase LOADED the host has the Step, and its reply is the `IR` it ends with (R86). -/
theorem hostMove_step {s t : State} (h : step s = .next t) :
    hostMove .step ⟨.loaded, s⟩ = some (⟨.loaded, t⟩, .opcode t.IR) := by
  simp [hostMove, HostOp.allowed, hostEffect, h]

/-- Settles O8: a Step that fetches ends with the fetched word in `IR`, and no instruction writes `IR`. -/
theorem stepCallReturnsBigEndianOpcode : Obligations.StepCallReturnsBigEndianOpcode := by
  intro s hs
  obtain ⟨t, ht, hIR⟩ := step_of_ready hs
  exact ⟨t, t.IR, hostMove_step ht, ht, hIR ▸ toNat_wordOfBytes _ _⟩

/-! ### An access past the end of memory (R43) -/

/-- An instruction whose data range passes 0xFFF latches DATA_OUT_OF_RANGE with `I` recorded, and does nothing else. -/
theorem exec_of_data_past {i : Instr} {s : State} (hn : 1 ≤ dataBytes i)
    (hpast : 0xFFF < s.I.toNat + dataBytes i - 1) : exec i s = .next (raise s .dataOutOfRange s.I) := by
  cases i
  case drw | ldB | storeRegs | loadRegs => exact exec_of_raises ⟨hn, hpast⟩
  all_goals cases hn

/-- Settles O38: the next state is the one that `raise` leaves. -/
theorem dataRangeErrorHasNoEffect : Obligations.DataRangeErrorHasNoEffect :=
  fun _ s hn hpast => ⟨_, exec_of_data_past hn hpast, rfl, rfl, raise_frame s _ _⟩

/-! ### A fetch after a store (R49) -/

@[simp] theorem highByte_fetchWord (s : State) : highByte (fetchWord s) = memRead s.mem s.pc.toNat :=
  highByte_wordOfBytes _ _

@[simp] theorem lowByte_fetchWord (s : State) : lowByte (fetchWord s) = memRead s.mem (s.pc.toNat + 1) :=
  lowByte_wordOfBytes _ _

/-- Each stored byte is what a read at its address gives. -/
theorem memRead_storeBytes_of_getElem? {bs : List Byte} {k : Nat} {b : Byte} (hb : bs[k]? = some b)
    (m : Memory) (a : Nat) : memRead (storeBytes m a bs) (a + k) = b := by
  obtain ⟨hk, hb⟩ := List.getElem?_eq_some_iff.1 hb
  simpa [memRead_storeBytes, hk] using hb

/-- A stored byte is the high byte of a fetch at its address, and the low byte of a fetch one below. -/
theorem fetchWord_of_stored {bs : List Byte} {k : Nat} {b : Byte} (hb : bs[k]? = some b) (s : State) (a : Nat)
    (at' : Word) :
    (at'.toNat = a + k → highByte (fetchWord (setPc (setMem s (storeBytes s.mem a bs)) at')) = b) ∧
    (at'.toNat + 1 = a + k → lowByte (fetchWord (setPc (setMem s (storeBytes s.mem a bs)) at')) = b) := by
  have hread := memRead_storeBytes_of_getElem? hb s.mem a
  exact ⟨fun hat => by simp [hat, hread], fun hat => by simp [hat, hread]⟩

/-- LD [I],VX inside memory stores V0 to VX from `I` on (43_index_memory.md R144). -/
theorem exec_storeRegs_ok {x : Nibble} {s : State} (h : s.I.toNat + x.toNat ≤ 0xFFF) :
    exec (.storeRegs x) s = .next (setMem s (storeBytes s.mem (indexAddr s) (registersUpTo s x))) :=
  congrArg Host.Outcome.next (withDataRange_ok _ (.inr h))

/-- LD B,VX inside memory stores the three digits from `I` on (43_index_memory.md R143). -/
theorem exec_ldB_ok {x : Nibble} {s : State} (h : s.I.toNat + 2 ≤ 0xFFF) :
    exec (.ldB x) s = .next (setMem s (storeBytes s.mem (indexAddr s) (bcdDigits (readV s x)))) :=
  congrArg Host.Outcome.next (withDataRange_ok _ (.inr h))

/-- Register V`k` stands at place `k` of the registers that LD [I],VX stores. -/
theorem registersUpTo_getElem? {k x : Nibble} (h : k.toNat ≤ x.toNat) (s : State) :
    (registersUpTo s x)[k.toNat]? = some (readV s k) := by
  have hk : k.toNat < (registersUpTo s x).length := by rw [length_registersUpTo]; omega
  rw [List.getElem?_eq_getElem hk, getElem_registersUpTo]

/-- A digit that LD B,VX stores fits its byte: the byte's value is the digit. -/
theorem bcdDigits_getElem? {v : Byte} {k digit : Nat}
    (h : [v.toNat / 100, v.toNat / 10 % 10, v.toNat % 10][k]? = some digit) :
    (bcdDigits v)[k]? = some (BitVec.ofNat 8 digit) ∧ (BitVec.ofNat 8 digit).toNat = digit := by
  have hmap : bcdDigits v = [v.toNat / 100, v.toNat / 10 % 10, v.toNat % 10].map (BitVec.ofNat 8) := rfl
  have hlt : digit < 256 := by
    have := v.isLt
    have hmem := List.mem_of_getElem? h
    simp only [List.mem_cons, List.not_mem_nil, or_false] at hmem
    omega
  exact ⟨by rw [hmap, List.getElem?_map, h]; rfl, by simpa using hlt⟩

/-- Settles O40: both stores are `storeBytes`, and a fetch reads each stored byte back. -/
theorem storeIsSeenByNextFetch : Obligations.StoreIsSeenByNextFetch := by
  constructor
  · exact fun x s hfit => ⟨_, exec_storeRegs_ok hfit, fun k at' hk =>
      fetchWord_of_stored (registersUpTo_getElem? hk s) s _ at'⟩
  · refine fun x s hfit => ⟨_, exec_ldB_ok hfit, fun k digit at' hdigit => ?_⟩
    obtain ⟨hstored, hvalue⟩ := bcdDigits_getElem? hdigit
    obtain ⟨hhigh, hlow⟩ := fetchWord_of_stored hstored s (indexAddr s) at'
    exact ⟨fun hat => hhigh hat ▸ hvalue, fun hat => hlow hat ▸ hvalue⟩

end Sys2Proof.Machine
end

section
/-! The encoding's family of statements (spec 30_encoding.md): encode and decode undo each other, the decoder is the opcode map of R64, the words it rejects are the four groups of R65, and the assembler's forms round-trip. -/

namespace Sys2Proof

/-! ### Decode after encode (R61, R63, R64) -/

/-- Group 8 is decoded from its fields. -/
theorem decodeWord_group8 (x y n : Nibble) : decodeWord (formatXYN 0x8#4 x y n) = decodeGroup8 x y n := by
  simp [decodeWord]

/-- Group E is decoded from its fields. -/
theorem decodeWord_groupE (x : Nibble) (nn : Byte) : decodeWord (formatXNN 0xE#4 x nn) = decodeGroupE x nn := by
  simp [decodeWord]

/-- Group F is decoded from its fields. -/
theorem decodeWord_groupF (x : Nibble) (nn : Byte) : decodeWord (formatXNN 0xF#4 x nn) = decodeGroupF x nn := by
  simp [decodeWord]

@[simp] theorem decodeWord_encode (i : Instr) : decodeWord (encode i) = .ok i := by
  cases i
  case cls | ret => rfl
  case ldReg x y | orReg x y | andReg x y | xorReg x y | addReg x y | subReg x y | shr x y | subnReg x y | shl x y =>
    exact decodeWord_group8 x y _
  case skp x | sknp x => exact decodeWord_groupE x _
  case ldVxDt x | ldVxK x | ldDtVx x | ldStVx x | addI x | ldF x | ldB x | storeRegs x | loadRegs x =>
    exact decodeWord_groupF x _
  all_goals simp [encode, decodeWord]

/-- Two bytes decode as the word they make (R42, R60). -/
theorem decodeBytes_split (w : Word) :
    decodeBytes [highByte w, lowByte w] = (decodeWord w).map fun i => (i, []) := by
  simp [decodeBytes]

/-- Settles O2: the group selects the lookup, and each field of the encoded word is the operand. -/
theorem decodeAfterEncode : Obligations.DecodeAfterEncode := by
  intro i
  refine ⟨decodeWord_encode i, ?_⟩
  rw [decodeBytes_split, decodeWord_encode]
  rfl

/-- Settles O3: `encode_of_decodeWord`, by the group of the word. -/
theorem encodeAfterDecode : Obligations.EncodeAfterDecode :=
  fun _ _ => Machine.encode_of_decodeWord

/-! ### The decoder and the opcode map (R63, R64) -/

/-- The bits that select a row in a group: all of group 0, the low nibble of group 8, the low byte of groups E and F, and
the group alone elsewhere (D4 to D6). -/
def groupMask (g : Nibble) : Word :=
  if g = 0x0#4 then 0xFFFF#16
  else if g = 0x8#4 then 0xF00F#16
  else if g = 0xE#4 ∨ g = 0xF#4 then 0xF0FF#16
  else 0xF000#16

/-- The row of the instruction that a word decodes to. -/
def decodedRow (op : Word) : Option OpcodeRow :=
  (decodeWord op).toOption.map opcodeRow

theorem decodedRow_of_ok {op : Word} {i : Instr} (h : decodeWord op = .ok i) : decodedRow op = some (opcodeRow i) := by
  rw [decodedRow, h]
  rfl

theorem decodedRow_eq_some {op : Word} {r : OpcodeRow} (h : decodedRow op = some r) :
    ∃ i, decodeWord op = .ok i ∧ opcodeRow i = r := by
  cases hd : decodeWord op with
  | ok i => exact ⟨i, rfl, Option.some.inj ((decodedRow_of_ok hd).symm.trans h)⟩
  | error e => simp [decodedRow, hd, Except.toOption] at h

theorem opcodeTable_mask : ∀ r ∈ opcodeTable, r.mask = groupMask (fieldG r.pattern) := by decide

theorem opcodeTable_pattern_and_mask : ∀ r ∈ opcodeTable, r.pattern &&& r.mask = r.pattern := by decide

theorem opcodeTable_decodedRow : ∀ r ∈ opcodeTable, decodedRow r.pattern = some r := by decide

/-- Words that agree under a mask agree in each slice the mask covers. -/
theorem extract_eq_of_and_eq {w s l : Nat} {v v' m : BitVec w} (hm : m.extractLsb' s l = BitVec.allOnes l)
    (h : v &&& m = v' &&& m) : v.extractLsb' s l = v'.extractLsb' s l := by
  have hs := congrArg (BitVec.extractLsb' s l) h
  rwa [BitVec.extractLsb'_and, BitVec.extractLsb'_and, hm, BitVec.and_allOnes, BitVec.and_allOnes] at hs

theorem groupMask_covers_fieldG (g : Nibble) : (groupMask g).extractLsb' 12 4 = BitVec.allOnes 4 := by
  revert g
  decide

/-- The row of a word of group 8 rests on the low nibble. -/
theorem decodeGroup8_row (x y x' y' n : Nibble) :
    (decodeGroup8 x y n).toOption.map opcodeRow = (decodeGroup8 x' y' n).toOption.map opcodeRow := by
  unfold decodeGroup8
  split_ifs <;> rfl

/-- The row of a word of group E rests on the low byte. -/
theorem decodeGroupE_row (x x' : Nibble) (nn : Byte) :
    (decodeGroupE x nn).toOption.map opcodeRow = (decodeGroupE x' nn).toOption.map opcodeRow := by
  unfold decodeGroupE
  split_ifs <;> rfl

/-- The row of a word of group F rests on the low byte. -/
theorem decodeGroupF_row (x x' : Nibble) (nn : Byte) :
    (decodeGroupF x nn).toOption.map opcodeRow = (decodeGroupF x' nn).toOption.map opcodeRow := by
  unfold decodeGroupF
  split_ifs <;> rfl

/-- Words that agree on the bits that select a row decode to one row, or both to none. -/
theorem decodedRow_congr {op op' : Word} (h : op &&& groupMask (fieldG op') = op' &&& groupMask (fieldG op')) :
    decodedRow op = decodedRow op' := by
  have hG : fieldG op = fieldG op' := extract_eq_of_and_eq (groupMask_covers_fieldG _) h
  obtain hg | hg | hg | hg | hg | hg | hg | hg | hg | hg | hg | hg | hg | hg | hg | hg := nibble_cases (fieldG op') <;>
    rw [hg] at h hG <;> simp only [decodedRow, decodeWord, hg, hG]
  · have hop : op = op' := by simpa only [extract_all] using extract_eq_of_and_eq (s := 0) (l := 16) rfl h
    rw [hop]
  iterate 7 · rfl
  · have hN : fieldN op = fieldN op' := extract_eq_of_and_eq rfl h
    rw [hN]
    exact decodeGroup8_row _ _ _ _ _
  iterate 5 · rfl
  · have hNN : fieldNN op = fieldNN op' := extract_eq_of_and_eq rfl h
    rw [hNN]
    exact decodeGroupE_row _ _ _
  · have hNN : fieldNN op = fieldNN op' := extract_eq_of_and_eq rfl h
    rw [hNN]
    exact decodeGroupF_row _ _ _

/-- The decoder answers a row's instruction on the words the row selects: they agree with its pattern under its mask. -/
theorem decodedRow_of_selects {op : Word} {r : OpcodeRow} (hr : r ∈ opcodeTable) (h : r.selects op = true) :
    decodedRow op = some r := by
  have hop : op &&& r.mask = r.pattern := beq_iff_eq.1 h
  have hagree := hop.trans (opcodeTable_pattern_and_mask r hr).symm
  rw [opcodeTable_mask r hr] at hagree
  exact (decodedRow_congr hagree).trans (opcodeTable_decodedRow r hr)

/-- The canonical word of an instruction selects its row (R64). -/
theorem opcodeRow_selects_encode (i : Instr) : (opcodeRow i).selects (encode i) = true :=
  match i with
  | .cls => Laws.OpcodeRow.cls
  | .ret => Laws.OpcodeRow.ret
  | .jp nnn => Laws.OpcodeRow.jp nnn
  | .call nnn => Laws.OpcodeRow.call nnn
  | .seImm x nn => Laws.OpcodeRow.seImm x nn
  | .sneImm x nn => Laws.OpcodeRow.sneImm x nn
  | .seReg x y => Laws.OpcodeRow.seReg x y
  | .sneReg x y => Laws.OpcodeRow.sneReg x y
  | .ldImm x nn => Laws.OpcodeRow.ldImm x nn
  | .addImm x nn => Laws.OpcodeRow.addImm x nn
  | .ldReg x y => Laws.OpcodeRow.ldReg x y
  | .orReg x y => Laws.OpcodeRow.orReg x y
  | .andReg x y => Laws.OpcodeRow.andReg x y
  | .xorReg x y => Laws.OpcodeRow.xorReg x y
  | .addReg x y => Laws.OpcodeRow.addReg x y
  | .subReg x y => Laws.OpcodeRow.subReg x y
  | .shr x y => Laws.OpcodeRow.shr x y
  | .subnReg x y => Laws.OpcodeRow.subnReg x y
  | .shl x y => Laws.OpcodeRow.shl x y
  | .ldI nnn => Laws.OpcodeRow.ldI nnn
  | .jpV0 nnn => Laws.OpcodeRow.jpV0 nnn
  | .rnd x nn => Laws.OpcodeRow.rnd x nn
  | .drw x y n => Laws.OpcodeRow.drw x y n
  | .skp x => Laws.OpcodeRow.skp x
  | .sknp x => Laws.OpcodeRow.sknp x
  | .ldVxDt x => Laws.OpcodeRow.ldVxDt x
  | .ldVxK x => Laws.OpcodeRow.ldVxK x
  | .ldDtVx x => Laws.OpcodeRow.ldDtVx x
  | .ldStVx x => Laws.OpcodeRow.ldStVx x
  | .addI x => Laws.OpcodeRow.addI x
  | .ldF x => Laws.OpcodeRow.ldF x
  | .ldB x => Laws.OpcodeRow.ldB x
  | .storeRegs x => Laws.OpcodeRow.storeRegs x
  | .loadRegs x => Laws.OpcodeRow.loadRegs x

/-- A row's mask holds no bit that its instruction does not examine (R66). -/
theorem examinedBits_and_mask (i : Instr) : examinedBits i &&& (opcodeRow i).mask = (opcodeRow i).mask := by
  cases i
  case seReg | sneReg => exact (by decide : 0xFFF0#16 &&& 0xF000#16 = 0xF000#16)
  all_goals exact BitVec.allOnes_and

/-- A decoded word selects the row of its instruction. -/
theorem opcodeRow_selects_of_decodeWord {op : Word} {i : Instr} (h : decodeWord op = .ok i) :
    (opcodeRow i).selects op = true := by
  refine beq_iff_eq.2 ?_
  calc op &&& (opcodeRow i).mask
    _ = op &&& (examinedBits i &&& (opcodeRow i).mask) := by rw [examinedBits_and_mask]
    _ = encode i &&& (opcodeRow i).mask := by rw [← BitVec.and_assoc, Machine.encode_of_decodeWord h]
    _ = (opcodeRow i).pattern := beq_iff_eq.1 (opcodeRow_selects_encode i)

/-- Settles O4: a word's row is the row its decoded instruction has, so a word selects one row at most. -/
theorem decoderFollowsOpcodeMap : Obligations.DecoderFollowsOpcodeMap := by
  refine fun op => ⟨fun i => opcodeRow_selects_of_decodeWord,
    fun r hr h => decodedRow_eq_some (decodedRow_of_selects hr h), fun r hr r' hr' h h' => ?_⟩
  exact Option.some.inj ((decodedRow_of_selects hr h).symm.trans (decodedRow_of_selects hr' h'))

/-! ### The rejected words (R65) -/

theorem decodeGroup0_error_iff {op : Word} {e : Reject} :
    decodeGroup0 op = .error e ↔ e = .unrecognizedGroup0 ∧ op ≠ 0x00E0#16 ∧ op ≠ 0x00EE#16 := by
  unfold decodeGroup0
  split_ifs <;> simp [*, eq_comm]

theorem decodeGroup8_error_iff {x y n : Nibble} {e : Reject} :
    decodeGroup8 x y n = .error e ↔
      e = .unrecognizedGroup8 ∧ n ∈ [0x8#4, 0x9#4, 0xA#4, 0xB#4, 0xC#4, 0xD#4, 0xF#4] := by
  obtain hn | hn | hn | hn | hn | hn | hn | hn | hn | hn | hn | hn | hn | hn | hn | hn := nibble_cases n <;>
    simp [decodeGroup8, hn, eq_comm]

theorem decodeGroupE_error_iff {x : Nibble} {nn : Byte} {e : Reject} :
    decodeGroupE x nn = .error e ↔ e = .unrecognizedGroupE ∧ nn ∉ [0x9E#8, 0xA1#8] := by
  unfold decodeGroupE
  split_ifs <;> simp [*, eq_comm]

theorem decodeGroupF_error_iff {x : Nibble} {nn : Byte} {e : Reject} :
    decodeGroupF x nn = .error e ↔ e = .unrecognizedGroupF ∧
      nn ∉ [0x07#8, 0x0A#8, 0x15#8, 0x18#8, 0x1E#8, 0x29#8, 0x33#8, 0x55#8, 0x65#8] := by
  unfold decodeGroupF
  split_ifs <;> simp [*, eq_comm]

/-- Only the groups with a secondary lookup reject a word. -/
theorem decodeWord_error_iff {op : Word} {e : Reject} :
    decodeWord op = .error e ↔
      (fieldG op = 0x0#4 ∧ decodeGroup0 op = .error e) ∨
      (fieldG op = 0x8#4 ∧ decodeGroup8 (fieldX op) (fieldY op) (fieldN op) = .error e) ∨
      (fieldG op = 0xE#4 ∧ decodeGroupE (fieldX op) (fieldNN op) = .error e) ∨
      (fieldG op = 0xF#4 ∧ decodeGroupF (fieldX op) (fieldNN op) = .error e) := by
  obtain hg | hg | hg | hg | hg | hg | hg | hg | hg | hg | hg | hg | hg | hg | hg | hg := nibble_cases (fieldG op) <;>
    simp [decodeWord, hg]

theorem toNat_fieldG (op : Word) : (fieldG op).toNat = op.toNat / 4096 := by
  have := op.isLt
  simp only [fieldG, BitVec.extractLsb'_toNat, Nat.shiftRight_eq_div_pow]
  omega

theorem toNat_fieldN (op : Word) : (fieldN op).toNat = op.toNat % 16 := by
  simp [fieldN]

theorem toNat_fieldNN (op : Word) : (fieldNN op).toNat = op.toNat % 256 := by
  simp [fieldNN]

/-- Settles O5: the rejecting groups, each with the words its lookup rejects, in the numbers of R65. -/
theorem unrecognizedWordsByGroup : Obligations.UnrecognizedWordsByGroup := by
  intro op
  simp [decodeWord_error_iff, decodeGroup0_error_iff, decodeGroup8_error_iff, decodeGroupE_error_iff,
    decodeGroupF_error_iff, BitVec.toNat_eq, toNat_fieldG, toNat_fieldN, toNat_fieldNN]

/-! ### The assembler (R67, R68) -/

theorem toAsm_wellFormed (i : Instr) : (i.toAsm true).wellFormed = true :=
  match i with
  | .cls => Laws.WellFormed.cls
  | .ret => Laws.WellFormed.ret
  | .jp nnn => Laws.WellFormed.jp nnn
  | .call nnn => Laws.WellFormed.call nnn
  | .seImm x nn => Laws.WellFormed.seImm x nn
  | .sneImm x nn => Laws.WellFormed.sneImm x nn
  | .seReg x y => Laws.WellFormed.seReg x y
  | .sneReg x y => Laws.WellFormed.sneReg x y
  | .ldImm x nn => Laws.WellFormed.ldImm x nn
  | .addImm x nn => Laws.WellFormed.addImm x nn
  | .ldReg x y => Laws.WellFormed.ldReg x y
  | .orReg x y => Laws.WellFormed.orReg x y
  | .andReg x y => Laws.WellFormed.andReg x y
  | .xorReg x y => Laws.WellFormed.xorReg x y
  | .addReg x y => Laws.WellFormed.addReg x y
  | .subReg x y => Laws.WellFormed.subReg x y
  | .shr x y => Laws.WellFormed.shr x y
  | .subnReg x y => Laws.WellFormed.subnReg x y
  | .shl x y => Laws.WellFormed.shl x y
  | .ldI nnn => Laws.WellFormed.ldI nnn
  | .jpV0 nnn => Laws.WellFormed.jpV0 nnn
  | .rnd x nn => Laws.WellFormed.rnd x nn
  | .drw x y n => Laws.WellFormed.drw x y n
  | .skp x => Laws.WellFormed.skp x
  | .sknp x => Laws.WellFormed.sknp x
  | .ldVxDt x => Laws.WellFormed.ldVxDt x
  | .ldVxK x => Laws.WellFormed.ldVxK x
  | .ldDtVx x => Laws.WellFormed.ldDtVx x
  | .ldStVx x => Laws.WellFormed.ldStVx x
  | .addI x => Laws.WellFormed.addI x
  | .ldF x => Laws.WellFormed.ldF x
  | .ldB x => Laws.WellFormed.ldB x
  | .storeRegs x => Laws.WellFormed.storeRegs x
  | .loadRegs x => Laws.WellFormed.loadRegs x

/-- The shape of the form names the operation, and each number fits the field it is read into (R68). -/
theorem assemble_toAsm (i : Instr) : assemble (i.toAsm true) = some i := by
  unfold assemble
  rw [if_pos (toAsm_wellFormed i)]
  cases i <;> simp [Instr.toAsm]

theorem assemble_of_not_wellFormed {l : AsmLine} (h : l.wellFormed = false) : assemble l = none :=
  if_neg (by simp [h])

/-- Each well-formed shape has its arm in the assembler. -/
theorem assemble_isSome_of_wellFormed {l : AsmLine} (h : l.wellFormed = true) : (assemble l).isSome = true := by
  unfold assemble
  rw [if_pos h]
  unfold AsmLine.wellFormed at h
  split at h
  on_goal -1 => cases h
  all_goals
    rename_i hmnemonic hoperands
    obtain ⟨m, ops⟩ := l
    cases hmnemonic
    cases hoperands
    rfl

/-- A shift written with one operand assembles with Y = 0 (R66). -/
theorem assemble_one_operand_shift (x y : Nibble) :
    assemble ((Instr.shr x y).toAsm false) = some (.shr x 0) ∧
    assemble ((Instr.shl x y).toAsm false) = some (.shl x 0) := by
  simp [assemble, Instr.toAsm, AsmLine.wellFormed, nibble_lt]

/-- Settles O6: an instruction's form is well formed, and the assembler has an arm for each well-formed shape. -/
theorem assemblerFormsRoundTrip : Obligations.AssemblerFormsRoundTrip := by
  refine ⟨assemble_toAsm, fun l => ?_, assemble_one_operand_shift⟩
  cases h : l.wellFormed with
  | true => exact assemble_isSome_of_wellFormed h
  | false => rw [assemble_of_not_wellFormed h]; rfl

/-! ### Written-out words (R64) -/

/-- Settles O1, by running the decoder on the written words. -/
theorem decodingOfWrittenWords : Obligations.DecodingOfWrittenWords := by
  unfold Obligations.DecodingOfWrittenWords
  decide

end Sys2Proof
end

section
/-! The step cycle's family of statements (spec 40_step_cycle.md): what a Step does in each of its cases, that it always has a next state, and what it does with a word placed where it fetches. -/

namespace Sys2Proof.Machine

/-! ### The Step in each of its cases (R80 to R85) -/

theorem step_of_halted {s : State} (herr : s.err ≠ .noError) : step s = .next s := by
  rw [step, if_pos ((halted_iff s).2 herr)]

theorem step_of_blocked {s : State} (herr : s.err = .noError) (hwait : s.wait = true) :
    step s = .next (pollKeys s) := by
  simp [step, halted, herr, hwait]

theorem step_of_pc_past {s : State} (herr : s.err = .noError) (hwait : s.wait = false) (hpc : 0x0FFE < s.pc.toNat) :
    step s = .next (raise s .fetchOutOfRange s.pc) := by
  have hguard : fetchOk s = false := by simpa [fetchOk] using hpc
  simp [step, halted, herr, hwait, hguard]

theorem step_of_decode_ok {s : State} {i : Instr} (hs : Ready s) (hd : decodeWord (fetchWord s) = .ok i) :
    step s = exec i (afterFetch s) := by
  obtain ⟨herr, hwait, hpc⟩ := hs
  have hguard := (fetchOk_iff s).2 hpc
  simp [step, halted, herr, hwait, hguard, hd]

theorem step_of_decode_error {s : State} {r : Reject} (hs : Ready s) (hd : decodeWord (fetchWord s) = .error r) :
    step s = .next (recordUnrecognized (afterFetch s) (fetchWord s)) := by
  obtain ⟨herr, hwait, hpc⟩ := hs
  have hguard := (fetchOk_iff s).2 hpc
  simp [step, halted, herr, hwait, hguard, hd]

/-- Settles O13, by the ways a Step can go: the one that runs an instruction has that instruction's next state. -/
theorem stepAlwaysHasANextState : Obligations.StepAlwaysHasANextState := by
  refine ⟨fun s => ?_, exec_next⟩
  obtain ⟨-, hs⟩ | ⟨-, -, hs⟩ | ⟨-, -, -, hs⟩ | ⟨-, -, -, -, hs⟩ | ⟨-, -, -, i, -, hs⟩ := step_cases s
  case inr.inr.inr.inr => exact hs ▸ exec_next i _
  all_goals exact ⟨_, hs⟩

/-- Settles O7: the fetch of a ready state moves `pc` past the word without reduction, and what it leaves is dispatched. -/
theorem stepRunsTheDecodedInstruction : Obligations.StepRunsTheDecodedInstruction := by
  intro s i hs hd
  have ⟨_, _, hpc⟩ := hs
  exact ⟨step_of_decode_ok hs hd, afterFetch_toNat_pc hpc, rfl, afterFetch_frame s⟩

/-- The Step that records an unrecognized word writes `diag`, and what the fetch writes. -/
theorem recordUnrecognized_afterFetch_frame (s : State) (w : Word) :
    ChangesOnly (fun c => c = .diag ∨ c = .pc ∨ c = .IR) s (recordUnrecognized (afterFetch s) w) :=
  ((afterFetch_frame s).mono fun _ => .inr).trans ((recordUnrecognized_frame _ w).mono fun _ => .inl)

/-- Settles O9: the next state is the state after the fetch with the word recorded. -/
theorem unrecognizedOpcodeIsRecordedAndSkipped : Obligations.UnrecognizedOpcodeIsRecordedAndSkipped := by
  intro s r hs hd
  have ⟨herr, _, hpc⟩ := hs
  exact ⟨_, step_of_decode_error hs hd, rfl, afterFetch_toNat_pc hpc, rfl, herr,
    recordUnrecognized_afterFetch_frame s _⟩

/-- Settles O10: the fetch guard raises the error, and `raise` leaves `IR`. -/
theorem fetchBeyondMemoryHalts : Obligations.FetchBeyondMemoryHalts := by
  intro s herr hwait hpc
  have hstep := step_of_pc_past herr hwait hpc
  exact ⟨_, hstep, rfl, rfl, raise_frame s _ _, hostMove_step hstep⟩

/-- Settles O11: a halted Step is a no-op, and the host is given the `IR` it finds. -/
theorem stepOfHaltedInstanceChangesNothing : Obligations.StepOfHaltedInstanceChangesNothing :=
  fun _ herr => ⟨step_of_halted herr, hostMove_step (step_of_halted herr)⟩

/-! ### The key-wait poll (R81) -/

/-- The poll that finds a key writes it to the waiting register and unblocks. -/
theorem pollKeys_of_some {s : State} {k : Nibble} (h : lowestKey s = some k) :
    pollKeys s = unblock (writeV s s.waitX (keyValue k)) := by
  rw [pollKeys, h]

theorem pollKeys_of_none {s : State} (h : lowestKey s = none) : pollKeys s = s := by
  rw [pollKeys, h]

theorem unblock_writeV_frame (s : State) (x : Nibble) (b : Byte) :
    ChangesOnly (fun c => c = .reg x ∨ c = .wait) s (unblock (writeV s x b)) :=
  ((writeV_frame s x b).mono fun _ => .inl).trans ((unblock_frame _).mono fun _ => .inr)

/-- Settles O12: a blocked Step is the poll, which goes by the smallest pressed key. -/
theorem keyWaitPollTakesSmallestKey : Obligations.KeyWaitPollTakesSmallestKey := by
  intro s herr hwait
  have hpoll := step_of_blocked herr hwait
  refine ⟨fun k hk hsmaller => ?_, fun hnone => ?_⟩
  · rw [pollKeys_of_some ((lowestKey_eq_some s k).2 ⟨hk, hsmaller⟩)] at hpoll
    exact ⟨_, hpoll, by simp, rfl, unblock_writeV_frame s _ _, hostMove_step hpoll⟩
  · rw [pollKeys_of_none ((lowestKey_eq_none s).2 hnone)] at hpoll
    exact ⟨hpoll, hostMove_step hpoll⟩

/-! ### A word placed where the next Step fetches (R82, 20_memory.md R42) -/

/-- A word's value, read as a 16-bit table word, is the word. -/
@[simp] theorem tableWord_toNat (w : Word) : tableWord 16 w.toNat = w := by
  rw [tableWord, Nat.mod_eq_of_lt w.isLt, BitVec.ofNat_toNat, BitVec.setWidth_eq]

section Placed

variable (s : State) (nbits w : Nat)

/-- A word is placed at `pc` when one can be fetched there. -/
theorem withFetchWord_pc_of_le {s : State} (h : s.pc.toNat ≤ 0x0FFE) : (s.withFetchWord nbits w).pc = s.pc :=
  if_pos ((fetchOk_iff s).2 h)

/-- Elsewhere it is placed at the load address (R191). -/
theorem withFetchWord_pc_of_past {s : State} (h : 0x0FFE < s.pc.toNat) : (s.withFetchWord nbits w).pc = 0x0200 :=
  if_neg (mt (fetchOk_iff s).1 (by omega))

@[simp] theorem withFetchWord_diag : (s.withFetchWord nbits w).diag = s.diag := rfl

@[simp] theorem withFetchWord_mem :
    (s.withFetchWord nbits w).mem = storeBytes s.mem (s.withFetchWord nbits w).pc.toNat
      [highByte (tableWord nbits w), lowByte (tableWord nbits w)] := rfl

theorem ready_withFetchWord : Ready (s.withFetchWord nbits w) := by
  refine ⟨rfl, rfl, ?_⟩
  rcases Nat.lt_or_ge 0x0FFE s.pc.toNat with h | h
  · simp [withFetchWord_pc_of_past nbits w h]
  · rwa [withFetchWord_pc_of_le nbits w h]

/-- The two stored bytes are read back as the word they were split from. -/
@[simp] theorem fetchWord_withFetchWord : fetchWord (s.withFetchWord nbits w) = tableWord nbits w := by
  simp [fetchWord, memRead_storeBytes]

/-- Placing a word writes `pc`, `wait`, `err` and the two bytes at the new `pc`. -/
theorem withFetchWord_frame :
    ChangesOnly (fun c => c = .pc ∨ c = .wait ∨ c = .err ∨ c = .memByte (s.withFetchWord nbits w).pc.toNat ∨
      c = .memByte ((s.withFetchWord nbits w).pc.toNat + 1)) s (s.withFetchWord nbits w) := by
  intro c hc
  cases c
  case pc | wait | err => simp at hc
  case memByte a =>
    have hout : ¬ ((s.withFetchWord nbits w).pc.toNat ≤ a ∧ a < (s.withFetchWord nbits w).pc.toNat + 2) := by
      simp at hc
      omega
    simp [Agree, memRead_storeBytes, hout]
  all_goals rfl

end Placed

/-- Settles O60: the state with the word placed is ready and fetches that word, so its Step is the one of O7 or O9. -/
theorem placedWordRunsNext : Obligations.PlacedWordRunsNext := by
  intro s w
  have hready := ready_withFetchWord s 16 w.toNat
  have hfetch : fetchWord (s.withFetchWord 16 w.toNat) = w := by simp
  refine ⟨hready, hfetch, fun i hd => ?_, fun r hd => ?_, withFetchWord_pc_of_le _ _, withFetchWord_frame s _ _⟩
  · exact step_of_decode_ok hready (hfetch.symm ▸ hd)
  · exact ⟨_, step_of_decode_error hready (hfetch.symm ▸ hd), by simp⟩

end Sys2Proof.Machine
end

section
/-! The control transfer's family of statements (spec 41_flow.md): jumps, CALL and RET, and the conditional skips. -/

namespace Sys2Proof.Machine

/-! ### Conditional skips (R103 to R107) -/

/-- The low nibble of VX, as `skipCondition` writes it, is the key index of SKP and SKNP (45_keypad_timers.md R176). -/
theorem extractLsb'_readV (s : State) (x : Nibble) : (readV s x).extractLsb' 0 4 = keyIndex s x :=
  BitVec.eq_of_toNat_eq (by simp [keyIndex])

/-- A conditional skip is `skipIf` on its condition, and nothing else. -/
theorem exec_of_skipCondition {i : Instr} {s : State} {taken : Bool} (h : skipCondition i s = some taken) :
    exec i s = .next (skipIf taken s) := by
  cases i
  case seImm | seReg => cases h; rfl
  case sneImm | sneReg => cases h; simp [exec, execSneImm, execSneReg, bne, beq_eq_decide]
  case skp | sknp => cases h; rw [extractLsb'_readV]; rfl
  all_goals cases h

/-- Two skips on opposite conditions: one adds 2 to the post-fetch `pc` where the other leaves it, and neither writes
anything else. -/
theorem exec_opposite_skips {i j : Instr} {s : State} {p : Prop} [Decidable p]
    (hi : skipCondition i s = some (decide p)) (hj : skipCondition j s = some (!decide p)) :
    (∃ t, exec i s = .next t ∧ t.pc = (if p then s.pc + 2 else s.pc) ∧ ChangesOnly (fun c => c = .pc) s t) ∧
    (∃ t, exec j s = .next t ∧ t.pc = (if p then s.pc else s.pc + 2) ∧ ChangesOnly (fun c => c = .pc) s t) :=
  ⟨⟨_, exec_of_skipCondition hi, by simp, skipIf_frame _ s⟩, _, exec_of_skipCondition hj, by simp, skipIf_frame _ s⟩

/-- The fetch writes nothing that a skip's condition reads. -/
theorem skipCondition_afterFetch (i : Instr) (s : State) : skipCondition i (afterFetch s) = skipCondition i s := by
  cases i <;> rfl

/-- From a `pc` at which a word was fetched, neither the fetch nor the skip reduces mod 2^16. -/
theorem toNat_pc_skipIf_afterFetch {s : State} (hpc : s.pc.toNat ≤ 0x0FFE) (taken : Bool) :
    (skipIf taken (afterFetch s)).pc.toNat = s.pc.toNat + (if taken then 4 else 2) := by
  have hfetch := afterFetch_toNat_pc hpc
  cases taken
  case false => exact hfetch
  case true =>
    have htwo : (2 : Word).toNat = 2 := rfl
    rw [skipIf_pc, if_pos rfl, if_pos rfl, BitVec.toNat_add, hfetch, htwo]
    omega

/-- Settles O24: the Step is the skip on the state after the fetch, and the skip reads no memory. -/
theorem takenSkipPassesTwoBytes : Obligations.TakenSkipPassesTwoBytes := by
  intro s i taken hs hd htaken
  have ⟨_, _, hpc⟩ := hs
  have hskip := exec_of_skipCondition ((skipCondition_afterFetch i s).trans htaken)
  exact ⟨_, (step_of_decode_ok hs hd).trans hskip, toNat_pc_skipIf_afterFetch hpc taken, skipIf_IR _ _,
    (afterFetch_frame s).trans ((skipIf_frame taken _).mono fun _ => .inl)⟩

/-- Settles O21: SE and SNE skip on opposite outcomes of one comparison. -/
theorem skipComparesImmediate : Obligations.SkipComparesImmediate :=
  fun _ _ _ => exec_opposite_skips rfl rfl

/-- Settles O22: SE and SNE skip on opposite outcomes of one comparison. -/
theorem skipComparesRegisters : Obligations.SkipComparesRegisters :=
  fun _ _ _ => exec_opposite_skips rfl rfl

/-! ### CALL and RET (R100, R102) -/

/-- A component known to be kept may be taken out of a frame. -/
theorem ChangesOnly.drop {p q : Component → Prop} {s t : State} (h : ChangesOnly (fun c => p c ∨ q c) s t)
    (hkept : ∀ c, q c → Agree c s t) : ChangesOnly p s t := by
  intro c hp
  by_cases hq : q c
  · exact hkept c hq
  · exact h c (not_or.2 ⟨hp, hq⟩)

/-- RET writes `pc` and `sp`: the popped entry stays in the array. -/
theorem setPc_popStack_frame (s : State) (h : 0 < s.sp.val) (w : Word) :
    ChangesOnly (fun c => c = .pc ∨ c = .sp) s (setPc (popStack s h).2 w) :=
  ((popStack_frame s h).mono fun _ => .inr).trans ((setPc_frame _ w).mono fun _ => .inl)

/-- CALL writes the entry that `sp` indexes, `sp` and `pc`. -/
theorem setPc_pushStack_frame (s : State) (w a : Word) (h : s.sp.val < 16) :
    ChangesOnly (fun c => c = .stackEntry ⟨s.sp.val, h⟩ ∨ c = .sp ∨ c = .pc) s (setPc (pushStack s w h) a) :=
  ((pushStack_frame s w h).mono fun _ => Or.imp_right .inl).trans ((setPc_frame _ a).mono fun _ hc => .inr (.inr hc))

/-- The entry on top of the stack that CALL left is the pushed one (10_state.md R16). -/
theorem popStack_word_of_pushed (s : State) (w a : Word) (h : s.sp.val < 16) :
    (popStack (setPc (pushStack s w h) a) (Nat.succ_pos _)).1 = w :=
  Vector.getElem_set_self _

/-- RET after CALL goes to the `pc` that CALL pushed. -/
theorem exec_ret_of_call (s : State) (a : Word) (h : s.sp.val < 16) :
    exec .ret (setPc (pushStack s s.pc h) a) =
      .next (setPc (popStack (setPc (pushStack s s.pc h) a) (Nat.succ_pos _)).2 s.pc) := by
  rw [exec, execRet_pop _ (Nat.succ_pos _), popStack_word_of_pushed]

/-- Settles O20: the pop gives back the pushed `pc` and takes `sp` back, so of what the two write only the entry differs. -/
theorem returnUndoesCall : Obligations.ReturnUndoesCall := by
  intro nnn s k hk
  have hsp : s.sp.val < 16 := hk ▸ k.isLt
  obtain rfl : k = ⟨s.sp.val, hsp⟩ := Fin.ext hk.symm
  refine ⟨_, _, execCall_push nnn s hsp, exec_ret_of_call s _ hsp, rfl, ?_⟩
  have hwrites := (setPc_pushStack_frame s s.pc (addrValue nnn) hsp).trans
    ((setPc_popStack_frame _ (Nat.succ_pos _) s.pc).mono fun _ hc => .inr hc.symm)
  refine hwrites.drop ?_
  rintro _ (rfl | rfl) <;> rfl

/-- Settles O14: the entry below `sp` is the one RET pops. -/
theorem returnPopsIntoPc : Obligations.ReturnPopsIntoPc := by
  intro s k hk
  have hsp : 0 < s.sp.val := by omega
  exact ⟨_, execRet_pop s hsp, by simp [hk], by simp [hk], setPc_popStack_frame s hsp _⟩

/-- Settles O15: the next state is the one that `raise` leaves. -/
theorem returnOnEmptyStackHalts : Obligations.ReturnOnEmptyStackHalts :=
  fun s hsp => ⟨_, execRet_empty s hsp, rfl, rfl, raise_frame s _ _⟩

/-- Settles O18: the push stores at `sp`, and the jump leaves the stack. -/
theorem callPushesPostFetchPc : Obligations.CallPushesPostFetchPc := by
  intro nnn s k hk
  have hsp : s.sp.val < 16 := hk ▸ k.isLt
  obtain rfl : k = ⟨s.sp.val, hsp⟩ := Fin.ext hk.symm
  exact ⟨_, execCall_push nnn s hsp, by simp, rfl, toNat_addrValue nnn, setPc_pushStack_frame s s.pc _ hsp⟩

/-- Settles O19: the next state is the one that `raise` leaves. -/
theorem callOnFullStackHalts : Obligations.CallOnFullStackHalts :=
  fun nnn s hsp => ⟨_, execCall_full nnn s hsp, rfl, rfl, raise_frame s _ _⟩

/-! ### Jumps (R101, R108) -/

/-- Settles O16: JP is `setPc` with NNN zero-extended. -/
theorem jumpWritesPc : Obligations.JumpWritesPc :=
  fun nnn s => ⟨_, rfl, toNat_addrValue nnn, setPc_frame s _⟩

/-- The sum of a register and a 12-bit address is not reduced mod 2^16 (R108). -/
theorem toNat_wordOfV_add_addrValue (s : State) (x : Nibble) (nnn : Addr) :
    (wordOfV s x + addrValue nnn).toNat = (readV s x).toNat + nnn.toNat := by
  have hv := byte_lt (readV s x)
  have hnnn := addr_lt nnn
  rw [BitVec.toNat_add, toNat_wordOfV, toNat_addrValue]
  omega

/-- Settles O17: JP V0 is `setPc` with a sum that fits in 16 bits. -/
theorem jumpV0AddsV0 : Obligations.JumpV0AddsV0 :=
  fun nnn s => ⟨_, rfl, toNat_wordOfV_add_addrValue s 0 nnn, setPc_frame s _⟩

end Sys2Proof.Machine
end

section
/-! The ALU's family of statements (spec 42_alu.md): loads, arithmetic, the bitwise operations, the shifts and the random byte. -/

namespace Sys2Proof.Machine

/-! ### Instructions that write one register (R120 to R125) -/

theorem readV_writeV_self (s : State) (x : Nibble) (b : Byte) : readV (writeV s x b) x = b := by
  rw [readV_writeV, if_pos rfl]

/-- A word whose group selector is 6 is LD VX,NN with its own fields X and NN. -/
theorem encode_ldImm_fields {op : Word} (hg : fieldG op = 0x6#4) : encode (.ldImm (fieldX op) (fieldNN op)) = op :=
  (congrArg (formatXNN · (fieldX op) (fieldNN op)) hg.symm).trans (word_eq_formatXNN op)

/-- Settles O25: the decoder gives back what encodes to the word, and the meaning is one write of NN. -/
theorem loadImmediateWritesNN : Obligations.LoadImmediateWritesNN := by
  refine ⟨fun op hg => ?_, fun x nn s => ⟨_, rfl, readV_writeV_self s x nn, writeV_frame s x nn⟩⟩
  exact (congrArg decodeWord (encode_ldImm_fields hg)).symm.trans (decodeWord_encode _)

/-- Settles O26: an 8-bit sum is the sum mod 256, and VX is all that is written. -/
theorem addImmediateWrapsWithoutFlag : Obligations.AddImmediateWrapsWithoutFlag := by
  intro x nn s
  refine ⟨_, rfl, ?_, writeV_frame s x _⟩
  rw [readV_writeV_self, BitVec.toNat_add]

/-- Settles O27: each of the four is one write to VX, of a byte whose bits the operation names. -/
theorem registerCopyAndBitwise : Obligations.RegisterCopyAndBitwise := by
  intro x y s
  refine ⟨⟨_, rfl, readV_writeV_self s x _, writeV_frame s x _⟩, ⟨_, rfl, fun b _ => ?or, writeV_frame s x _⟩,
    ⟨_, rfl, fun b _ => ?and, writeV_frame s x _⟩, ⟨_, rfl, fun b _ => ?xor, writeV_frame s x _⟩⟩
  case or => rw [readV_writeV_self, BitVec.getLsbD_or]
  case and => rw [readV_writeV_self, BitVec.getLsbD_and]
  case xor => rw [readV_writeV_self, BitVec.getLsbD_xor]

/-! ### The flags as numbers (R128) -/

theorem toNat_carryOut (a b : Byte) : (carryOut a b).toNat = if 255 < a.toNat + b.toNat then 1 else 0 := by
  rw [carryOut, Bool.toNat, Bool.cond_decide]

theorem toNat_strictlyGreater (a b : Byte) : (strictlyGreater a b).toNat = if b.toNat < a.toNat then 1 else 0 := by
  rw [strictlyGreater, Bool.toNat, Bool.cond_decide]

theorem toNat_lowBitOut (a : Byte) : (lowBitOut a).toNat = a.toNat % 2 := by
  rw [lowBitOut, BitVec.getLsbD, Nat.toNat_testBit, Nat.pow_zero, Nat.div_one]

theorem toNat_highBitOut (a : Byte) : (highBitOut a).toNat = a.toNat / 128 := by
  have ha := byte_lt a
  rw [highBitOut, BitVec.getLsbD, Nat.toNat_testBit]
  omega

/-! ### Instructions that write a result and then the flag (R126 to R131) -/

/-- An 8-bit difference, without truncation at 0 (R127, R130). -/
theorem toNat_sub_byte (a b : Byte) : (a - b).toNat = (a.toNat + 256 - b.toNat) % 256 := by
  have hb := byte_lt b
  rw [BitVec.toNat_sub]
  omega

/-- What an instruction that ends in `writeResultThenFlag` leaves: the flag in VF whatever X is, the result in VX unless X
is F, and nothing else changed (R11). -/
theorem exec_resultThenFlag {i : Instr} {s : State} {x : Nibble} {result : Byte} {flag : Bool} {m n : Nat}
    (hexec : exec i s = .next (writeResultThenFlag s x result flag)) (hflag : flag.toNat = m)
    (hresult : result.toNat = n) :
    ∃ t, exec i s = .next t ∧ (readV t VF).toNat = m ∧ (x ≠ VF → (readV t x).toNat = n) ∧
      ChangesOnly (fun c => c = .reg x ∨ c = .reg VF) s t := by
  refine ⟨_, hexec, ?flag, fun hx => ?result, writeResultThenFlag_frame s x result flag⟩
  case flag => rw [readV_writeResultThenFlag, if_pos rfl, toNat_flagValue, hflag]
  case result => rw [readV_writeResultThenFlag, if_neg hx, if_pos rfl, hresult]

/-- Settles O28: carry and sum are taken from the operands before either write. -/
theorem addRegistersSetsCarry : Obligations.AddRegistersSetsCarry :=
  fun _ _ _ => exec_resultThenFlag rfl (toNat_carryOut _ _) (BitVec.toNat_add _ _)

/-- Settles O29: SUBN is SUB with the operands exchanged. -/
theorem subtractionsSetStrictFlag : Obligations.SubtractionsSetStrictFlag :=
  fun _ _ _ => ⟨exec_resultThenFlag rfl (toNat_strictlyGreater _ _) (toNat_sub_byte _ _),
    exec_resultThenFlag rfl (toNat_strictlyGreater _ _) (toNat_sub_byte _ _)⟩

theorem toNat_shiftRight_one (a : Byte) : (a >>> 1).toNat = a.toNat / 2 := by
  rw [BitVec.toNat_ushiftRight, Nat.shiftRight_one]

theorem toNat_shiftLeft_one (a : Byte) : (a <<< 1).toNat = 2 * a.toNat % 256 := by
  rw [BitVec.toNat_shiftLeft, Nat.shiftLeft_eq, Nat.pow_one, Nat.mul_comm]

/-- Settles O30: under either setting of the parameter, `a` is the `shiftSource` that both shifts read. -/
theorem shiftsByOneSetBitOut : Obligations.ShiftsByOneSetBitOut := by
  rintro x y s _ rfl
  exact ⟨exec_resultThenFlag rfl (toNat_lowBitOut _) (toNat_shiftRight_one _),
    exec_resultThenFlag rfl (toNat_highBitOut _) (toNat_shiftLeft_one _)⟩

/-! ### The random byte (R132) -/

/-- RND takes the next draw and writes it to VX under the mask NN. -/
theorem exec_rnd (x : Nibble) (nn : Byte) (s : State) :
    exec (.rnd x nn) s = .next (writeV (draw8 s).2 x (Config.drawByte s.draws &&& nn)) := rfl

/-- RND writes VX, and the draw counter of the random source. -/
theorem writeV_draw8_frame (s : State) (x : Nibble) (b : Byte) :
    ChangesOnly (fun c => c = .reg x ∨ c = .draws) s (writeV (draw8 s).2 x b) :=
  ((draw8_frame s).mono fun _ => .inr).trans ((writeV_frame _ x b).mono fun _ => .inl)

/-- Settles O31: what is written is the draw under the mask NN, whatever the draw is. -/
theorem randomIsMaskedDraw : Obligations.RandomIsMaskedDraw := by
  intro x nn s
  have hread := readV_writeV_self (draw8 s).2 x (Config.drawByte s.draws &&& nn)
  refine ⟨_, exec_rnd x nn s, hread, draw8_draws s, ?outside, ?zero, writeV_draw8_frame s x _⟩
  case outside =>
    rw [hread, BitVec.and_assoc, BitVec.and_not_self]
    exact BitVec.and_zero
  case zero =>
    rintro rfl
    exact hread.trans BitVec.and_zero

end Sys2Proof.Machine
end

section
/-! The index register's and memory's family of statements (spec 43_index_memory.md): the writes of `I`, the decimal digits, and the block store and load. -/

namespace Sys2Proof.Machine

/-! ### The block store and load (R144, R145) -/

/-- LD VX,[I] inside memory loads V0 to VX from `I` on (R145). -/
theorem exec_loadRegs_ok {x : Nibble} {s : State} (h : s.I.toNat + x.toNat ≤ 0xFFF) :
    exec (.loadRegs x) s = .next (loadV s x (indexAddr s)) :=
  congrArg Host.Outcome.next (withDataRange_ok _ (.inr h))

/-- After a store of V0 to VX the byte at place `k` is V`k`. -/
theorem memRead_storeBytes_registersUpTo {k x : Nibble} (h : k.toNat ≤ x.toNat) (s : State) (m : Memory) (a : Nat) :
    memRead (storeBytes m a (registersUpTo s x)) (a + k.toNat) = readV s k :=
  memRead_storeBytes_of_getElem? (registersUpTo_getElem? h s) m a

/-- A store of V0 to VX changes the X + 1 bytes from its address on, and nothing else. -/
theorem setMem_registersUpTo_frame (s : State) (x : Nibble) (a : Nat) :
    ChangesOnly (fun c => ∃ k ≤ x.toNat, c = .memByte (a + k)) s (setMem s (storeBytes s.mem a (registersUpTo s x))) := by
  refine (setMem_storeBytes_frame s a _).mono ?_
  rintro _ ⟨k, hk, rfl⟩
  rw [length_registersUpTo] at hk
  exact ⟨k, Nat.le_of_lt_succ hk, rfl⟩

/-- A register that a load covers holds the byte at its place. -/
theorem readV_loadV_of_le {k x : Nibble} (h : k.toNat ≤ x.toNat) (s : State) (a : Nat) :
    readV (loadV s x a) k = memRead s.mem (a + k.toNat) := by
  rw [readV_loadV, if_pos h]

/-- Settles O39: of what the two write, the registers are kept, since each is loaded from the byte it was stored to. -/
theorem storeThenLoadKeepsRegisters : Obligations.StoreThenLoadKeepsRegisters := by
  intro x s hfit
  refine ⟨_, _, exec_storeRegs_ok hfit, exec_loadRegs_ok hfit, ?_⟩
  have hwrites : ChangesOnly (fun c => (∃ k ≤ x.toNat, c = .memByte (indexAddr s + k)) ∨
      ∃ k : Nibble, k.toNat ≤ x.toNat ∧ c = .reg k) s _ :=
    ((setMem_registersUpTo_frame s x _).mono fun _ => .inl).trans ((loadV_frame _ x (indexAddr s)).mono fun _ => .inr)
  refine hwrites.drop ?_
  rintro _ ⟨k, hk, rfl⟩
  exact (readV_loadV_of_le hk _ _).trans (memRead_storeBytes_registersUpTo hk s _ _)

/-- Settles O36: the bytes stored are the registers, each at its place. -/
theorem registersStored : Obligations.RegistersStored :=
  fun x s hfit => ⟨_, exec_storeRegs_ok hfit, fun _ hk => memRead_storeBytes_registersUpTo hk s _ _,
    setMem_registersUpTo_frame s x _⟩

/-- Settles O37: the block load reads each register's own byte. -/
theorem registersLoaded : Obligations.RegistersLoaded :=
  fun x s hfit => ⟨_, exec_loadRegs_ok hfit, fun _ hk => readV_loadV_of_le hk s _, loadV_frame s x _⟩

/-! ### The decimal digits (R143) -/

/-- After a store of the digits of `v` the byte at place `k` has the value of digit `k`. -/
theorem toNat_memRead_storeBytes_bcdDigits {v : Byte} {k digit : Nat}
    (h : [v.toNat / 100, v.toNat / 10 % 10, v.toNat % 10][k]? = some digit) (m : Memory) (a : Nat) :
    (memRead (storeBytes m a (bcdDigits v)) (a + k)).toNat = digit := by
  obtain ⟨hstored, hvalue⟩ := bcdDigits_getElem? h
  rw [memRead_storeBytes_of_getElem? hstored, hvalue]

/-- Settles O35: the hundreds, tens and ones are places 0, 1 and 2 of the stored digits. -/
theorem decimalDigitsStored : Obligations.DecimalDigitsStored :=
  fun _ s hfit => ⟨_, exec_ldB_ok hfit, toNat_memRead_storeBytes_bcdDigits (k := 0) rfl _ _,
    toNat_memRead_storeBytes_bcdDigits (k := 1) rfl _ _, toNat_memRead_storeBytes_bcdDigits (k := 2) rfl _ _,
    setMem_storeBytes_frame s _ (bcdDigits _)⟩

/-! ### The writes of the index register (R140 to R142) -/

/-- A word whose group selector is A is LD I,NNN with its own field NNN. -/
theorem encode_ldI_fieldNNN {op : Word} (hg : fieldG op = 0xA#4) : encode (.ldI (fieldNNN op)) = op :=
  (congrArg (formatNNN · (fieldNNN op)) hg.symm).trans (word_eq_formatNNN op)

/-- Settles O32: the decoder gives back what encodes to the word, and the meaning is one write of NNN to `I`. -/
theorem loadIndexWritesNNN : Obligations.LoadIndexWritesNNN := by
  refine ⟨fun op hg => ?_, fun nnn s => ⟨_, rfl, toNat_addrValue nnn, setI_frame s _⟩⟩
  exact (congrArg decodeWord (encode_ldI_fieldNNN hg)).symm.trans (decodeWord_encode _)

/-- Settles O33: a 16-bit sum is the sum mod 2^16, and `I` is all that is written. -/
theorem addIndexIsModulo65536 : Obligations.AddIndexIsModulo65536 := by
  intro x s
  refine ⟨_, rfl, ?_, setI_frame s _⟩
  rw [setI_I, BitVec.toNat_add, toNat_wordOfV]

/-- The glyph address of any byte fits in 16 bits: it is at most 0x0050 + 5 · 255 (R142). -/
theorem toNat_glyphAddress (s : State) (x : Nibble) :
    (0x0050 + 5 * wordOfV s x).toNat = 0x0050 + 5 * (readV s x).toNat := by
  have hv := byte_lt (readV s x)
  simp only [BitVec.toNat_add, BitVec.toNat_mul, toNat_wordOfV, BitVec.reduceToNat]
  omega

/-- Settles O34: LD F writes the glyph address of VX, which does not wrap, to `I`. -/
theorem glyphAddressIsLinear : Obligations.GlyphAddressIsLinear :=
  fun x s => ⟨_, rfl, toNat_glyphAddress s x, setI_frame s _⟩

end Sys2Proof.Machine
end

section
/-! The display's family of statements (spec 44_display.md): CLS, one DRW, and the same DRW twice. -/

namespace Sys2Proof.Machine

/-- Settles O41: CLS writes the blank framebuffer. -/
theorem clearScreenTurnsAllOff : Obligations.ClearScreenTurnsAllOff :=
  fun s => ⟨_, rfl, pixel_blankFb, setFb_frame s _⟩

/-! ### The pixels and the collision of one sprite (R161) -/

theorem pixel_drawSprite_of_covers {row : Nat → Byte} {x0 y0 n : Nat} {r : Fin 32} {c : Fin 64}
    (h : spriteCovers row x0 y0 n r.val c.val) (f : Framebuffer) :
    pixel (drawSprite row x0 y0 n f).1 r c = !pixel f r c :=
  Bool.eq_iff_iff.2 (by simpa [h] using (drawSprite_spec row x0 y0 f n).1 r c)

theorem pixel_drawSprite_of_not_covers {row : Nat → Byte} {x0 y0 n : Nat} {r : Fin 32} {c : Fin 64}
    (h : ¬ spriteCovers row x0 y0 n r.val c.val) (f : Framebuffer) :
    pixel (drawSprite row x0 y0 n f).1 r c = pixel f r c :=
  Bool.eq_iff_iff.2 (by simpa [h] using (drawSprite_spec row x0 y0 f n).1 r c)

theorem flagValue_eq_one_iff (b : Bool) : flagValue b = 1 ↔ b = true := by
  cases b <;> decide

theorem flagValue_eq_zero_iff (b : Bool) : flagValue b = 0 ↔ ¬ b = true := by
  cases b <;> decide

/-! ### DRW that passes its range check (R161) -/

section Draw

variable (x y n : Nibble) (s : State)

/-- The sprite of this DRW has a set bit on the pixel in row `r`, column `c`. -/
def DrwCovers (r : Fin 32) (c : Fin 64) : Prop :=
  spriteCovers (spriteRow s) (drawColumn s x) (drawLine s y) n.toNat r.val c.val

/-- What this DRW draws on the framebuffer, and whether it collides. -/
def drwDrawing : Drawing :=
  drawSprite (spriteRow s) (drawColumn s x) (drawLine s y) n.toNat s.fb

/-- The state this DRW leaves where its range check passes. -/
def afterDrw : State :=
  writeV (setFb s (drwDrawing x y n s).1) VF (flagValue (drwDrawing x y n s).2)

variable {x y n s}

/-- DRW whose sprite bytes lie inside memory, or that has none, draws (R43). -/
theorem exec_drw_ok (h : n.toNat = 0 ∨ s.I.toNat + n.toNat - 1 ≤ 0xFFF) :
    exec (.drw x y n) s = .next (afterDrw x y n s) :=
  congrArg Host.Outcome.next (withDataRange_ok _ h)

theorem pixel_afterDrw_of_covers {r : Fin 32} {c : Fin 64} (h : DrwCovers x y n s r c) :
    pixel (afterDrw x y n s).fb r c = !pixel s.fb r c :=
  pixel_drawSprite_of_covers h s.fb

theorem pixel_afterDrw_of_not_covers {r : Fin 32} {c : Fin 64} (h : ¬ DrwCovers x y n s r c) :
    pixel (afterDrw x y n s).fb r c = pixel s.fb r c :=
  pixel_drawSprite_of_not_covers h s.fb

/-- DRW collides where a covered pixel was on. -/
theorem drwDrawing_collision_iff :
    (drwDrawing x y n s).2 = true ↔ ∃ r c, DrwCovers x y n s r c ∧ pixel s.fb r c = true :=
  (drawSprite_spec _ _ _ s.fb n.toNat).2

theorem readV_afterDrw_VF : readV (afterDrw x y n s) VF = flagValue (drwDrawing x y n s).2 :=
  readV_writeV_self _ VF _

theorem readV_afterDrw_VF_eq_one_iff :
    readV (afterDrw x y n s) VF = 1 ↔ ∃ r c, DrwCovers x y n s r c ∧ pixel s.fb r c = true := by
  rw [readV_afterDrw_VF, flagValue_eq_one_iff, drwDrawing_collision_iff]

theorem readV_afterDrw_VF_eq_zero_iff :
    readV (afterDrw x y n s) VF = 0 ↔ ¬ ∃ r c, DrwCovers x y n s r c ∧ pixel s.fb r c = true := by
  rw [readV_afterDrw_VF, flagValue_eq_zero_iff, drwDrawing_collision_iff]

/-- DRW writes VF and pixels, and nothing else. -/
theorem afterDrw_frame : ChangesOnly (fun c => c = .reg VF ∨ ∃ r k, c = .pixel r k) s (afterDrw x y n s) :=
  ((setFb_frame s _).mono fun _ => .inr).trans ((writeV_frame _ VF _).mono fun _ => .inl)

/-! ### The same DRW twice (R161 (f)) -/

/-- A DRW keeps the registers other than VF. -/
theorem readV_afterDrw_of_ne {k : Nibble} (hk : k ≠ VF) : readV (afterDrw x y n s) k = readV s k :=
  afterDrw_frame (.reg k) (by simp [hk])

/-- A DRW whose coordinates are not in VF leaves what a second one reads: the coordinates, `I` and the sprite's bytes. -/
theorem drwCovers_afterDrw (hx : x ≠ VF) (hy : y ≠ VF) :
    DrwCovers x y n (afterDrw x y n s) = DrwCovers x y n s := by
  have hcolumn : drawColumn (afterDrw x y n s) x = drawColumn s x :=
    congrArg (fun v => v.toNat % 64) (readV_afterDrw_of_ne hx)
  have hline : drawLine (afterDrw x y n s) y = drawLine s y :=
    congrArg (fun v => v.toNat % 32) (readV_afterDrw_of_ne hy)
  have hrow : spriteRow (afterDrw x y n s) = spriteRow s := rfl
  funext r c
  rw [DrwCovers, DrwCovers, hcolumn, hline, hrow]

/-- Inverting the covered pixels twice restores every pixel. -/
theorem pixel_afterDrw_afterDrw (hx : x ≠ VF) (hy : y ≠ VF) (r : Fin 32) (c : Fin 64) :
    pixel (afterDrw x y n (afterDrw x y n s)).fb r c = pixel s.fb r c := by
  have hsame := drwCovers_afterDrw (n := n) (s := s) hx hy
  by_cases hc : DrwCovers x y n s r c
  · rw [pixel_afterDrw_of_covers (hsame ▸ hc), pixel_afterDrw_of_covers hc, Bool.not_not]
  · rw [pixel_afterDrw_of_not_covers (hsame ▸ hc), pixel_afterDrw_of_not_covers hc]

/-- The second DRW finds a covered pixel on where the first found it off. -/
theorem readV_afterDrw_afterDrw_VF_eq_one_iff (hx : x ≠ VF) (hy : y ≠ VF) :
    readV (afterDrw x y n (afterDrw x y n s)) VF = 1 ↔
      ∃ r c, DrwCovers x y n s r c ∧ pixel s.fb r c = false := by
  rw [readV_afterDrw_VF_eq_one_iff, drwCovers_afterDrw hx hy]
  refine exists_congr fun r => exists_congr fun c => and_congr_right fun hc => ?_
  rw [pixel_afterDrw_of_covers hc, Bool.not_eq_true']

end Draw

/-- Settles O42: the range check passes, and the parts of the statement are the pixels, the flag and the frame of the
drawing. -/
theorem drawXorsAndReportsCollision : Obligations.DrawXorsAndReportsCollision := by
  intro x y n s covers hrange hcovers
  obtain rfl : covers = DrwCovers x y n s := funext fun r => funext fun c => propext (hcovers r c)
  exact ⟨_, exec_drw_ok hrange, fun _ _ => pixel_afterDrw_of_covers, fun _ _ => pixel_afterDrw_of_not_covers,
    readV_afterDrw_VF_eq_one_iff.2, readV_afterDrw_VF_eq_zero_iff.2, afterDrw_frame⟩

/-- Settles O43: of what the two draws write, the pixels are restored. -/
theorem drawTwiceRestoresScreen : Obligations.DrawTwiceRestoresScreen := by
  intro x y n s hx hy hrange
  refine ⟨_, _, exec_drw_ok hrange, exec_drw_ok hrange, ?_, readV_afterDrw_afterDrw_VF_eq_one_iff hx hy⟩
  refine (afterDrw_frame.trans afterDrw_frame).drop ?_
  rintro _ ⟨r, c, rfl⟩
  exact pixel_afterDrw_afterDrw hx hy r c

end Sys2Proof.Machine
end

section
/-! The keypad's and the timers' family of statements (spec 45_keypad_timers.md): the skips on a key, the timers' copies, and the wait for a key. -/

namespace Sys2Proof.Machine

/-! ### The skips on a key (R170, R171, R176) -/

/-- The low nibble of VX as a number names the key that SKP and SKNP test (R176). -/
theorem keyIndex_eq_of_toNat {s : State} {x k : Nibble} (h : (readV s x).toNat % 16 = k.toNat) : keyIndex s x = k :=
  BitVec.eq_of_toNat_eq ((BitVec.toNat_setWidth 4 _).trans h)

theorem skipCondition_skp (x : Nibble) (s : State) : skipCondition (.skp x) s = some (keyPressed s (keyIndex s x)) := by
  rw [skipCondition, extractLsb'_readV]

theorem skipCondition_sknp (x : Nibble) (s : State) :
    skipCondition (.sknp x) s = some (!keyPressed s (keyIndex s x)) := by
  rw [skipCondition, extractLsb'_readV]

/-- Settles O23: SKP and SKNP skip on opposite states of the one key that the low nibble of VX names. -/
theorem skipTestsKey : Obligations.SkipTestsKey := by
  intro x k s hk
  obtain rfl := keyIndex_eq_of_toNat hk
  refine exec_opposite_skips ?skp ?sknp
  case skp => rw [skipCondition_skp, Bool.decide_eq_true]
  case sknp => rw [skipCondition_sknp, Bool.decide_eq_true]

/-! ### The timers (R172, R174, R175) -/

/-- Settles O44: each of the three is one write, to VX or to a timer. -/
theorem timerAccess : Obligations.TimerAccess :=
  fun x s => ⟨⟨_, rfl, readV_writeV_self s x s.DT, writeV_frame s x s.DT⟩,
    ⟨_, rfl, setDT_DT s _, setDT_frame s _⟩, ⟨_, rfl, setST_ST s _, setST_frame s _⟩⟩

/-! ### The wait for a key (R173) -/

theorem exec_ldVxK_of_some {s : State} {k : Nibble} (h : lowestKey s = some k) (x : Nibble) :
    exec (.ldVxK x) s = .next (writeV s x (keyValue k)) := by
  rw [exec, execLdVxK, h]

theorem exec_ldVxK_of_none {s : State} (h : lowestKey s = none) (x : Nibble) :
    exec (.ldVxK x) s = .next (blockOnKey s x) := by
  rw [exec, execLdVxK, h]

/-- Settles O45: LD VX,K goes by the smallest pressed key: one write of its index, or the block where no key is pressed. -/
theorem waitForKeyCompletesOrBlocks : Obligations.WaitForKeyCompletesOrBlocks := by
  refine fun x s => ⟨fun k hk hsmaller => ?pressed, fun hnone => ?blocked⟩
  case pressed =>
    refine ⟨_, exec_ldVxK_of_some ((lowestKey_eq_some s k).2 ⟨hk, hsmaller⟩) x, ?_, writeV_frame s x _⟩
    rw [readV_writeV_self, toNat_keyValue]
  case blocked =>
    exact ⟨_, exec_ldVxK_of_none ((lowestKey_eq_none s).2 hnone) x, rfl, rfl, blockOnKey_frame s x⟩

end Sys2Proof.Machine
end

section
/-! The host's family of statements (spec 46_host_operations.md): what each operation changes, in which phase the host has it, and the invariant of a session over its moves. -/

namespace Sys2Proof.Machine

/-! ### Where the host has a move (R190, R199) -/

theorem hostMove_of_allowed {o : HostOp} {h : Session} (ha : o.allowed h.phase = true) :
    hostMove o h = hostEffect o h := by
  rw [hostMove, if_pos ha]

/-- The duties refuse a Step outside LOADED, a LoadROM outside CONSTRUCTED, and in FAILED all but reset. -/
theorem allowed_eq_false_iff {o : HostOp} {p : Phase} :
    o.allowed p = false ↔
      (o = .step ∧ p ≠ .loaded) ∨ ((∃ bytes, o = .loadROM bytes) ∧ p ≠ .constructed) ∨
        (o ≠ .reset ∧ p = .failed) := by
  cases o <;> cases p <;> simp [HostOp.allowed]

/-- Short of phase FAILED, the duties restrict LoadROM and Step only. -/
theorem hostMove_of_not_failed {o : HostOp} {h : Session} (hp : h.phase ≠ .failed) (hstep : o ≠ .step)
    (hload : ∀ bytes, o ≠ .loadROM bytes) : hostMove o h = hostEffect o h := by
  refine hostMove_of_allowed (Bool.eq_true_of_not_eq_false fun hf => ?_)
  obtain ⟨ho, -⟩ | ⟨⟨bytes, ho⟩, -⟩ | ⟨-, hfailed⟩ := allowed_eq_false_iff.1 hf
  · exact hstep ho
  · exact hload bytes ho
  · exact hp hfailed

/-- Every allowed operation has its effect: LoadROM ends with one of its two results, and a Step has a next state. -/
theorem hostEffect_ne_none (o : HostOp) (h : Session) : hostEffect o h ≠ none := by
  cases o
  case loadROM bytes =>
    rcases Nat.lt_or_ge romMax bytes.length with hlong | hfits
    · simp [hostEffect, loadROM_tooLong h.core hlong]
    · simp [hostEffect, loadROM_ok h.core hfits]
  case step =>
    obtain ⟨t, ht⟩ := stepAlwaysHasANextState.1 h.core
    simp [hostEffect, ht]
  all_goals exact Option.some_ne_none _

theorem hostMove_eq_none_iff {o : HostOp} {h : Session} : hostMove o h = none ↔ o.allowed h.phase = false := by
  rw [hostMove, ite_eq_right_iff, ← Bool.not_eq_true]
  exact forall_congr' fun _ => iff_of_false (hostEffect_ne_none o h) id

/-- Settles O52: a move is missing only where the duties refuse it, since every allowed operation has an effect. -/
theorem hostDutiesGateMoves : Obligations.HostDutiesGateMoves :=
  fun _ _ => hostMove_eq_none_iff.trans allowed_eq_false_iff

/-! ### The invariant under the host's operations -/

theorem Inv.loadROM {s : State} {bytes : List Byte} (hi : Inv s) (hfits : bytes.length ≤ romMax) :
    Inv (setMem s (storeBytes s.mem 0x200 bytes)) :=
  have hend : 0x200 + bytes.length ≤ 4096 := by rw [romMax] at hfits; omega
  { hi with mem_wf := storeBytes_wf bytes hend hi.mem_wf }

theorem Inv.tickTimers {s : State} (hi : Inv s) : Inv (Machine.tickTimers s) :=
  { hi with }

theorem Inv.setKey {s : State} (hi : Inv s) (k : Nibble) (p : Bool) : Inv (Machine.setKey k p s) :=
  { hi with }

theorem hostReset_inv (s : State) : Inv (hostReset s) :=
  { construct_inv s.cfg with }

theorem start_sessionInv (cfg : Config) : SessionInv (Session.start cfg) where
  core := construct_inv cfg
  before_load := fun _ => ⟨rfl, rfl, rfl, rfl, rfl, rfl⟩

theorem hostMove_keeps_sessionInv {o : HostOp} {h h' : Session} {r : HostReply} (hi : SessionInv h)
    (hm : hostMove o h = some (h', r)) : SessionInv h' := by
  obtain ⟨-, rfl, -⟩ | ⟨bytes, -, hphase, ⟨hfits, rfl, -⟩ | ⟨-, rfl, -⟩⟩ | ⟨-, -, t, ht, rfl, -⟩ |
    ⟨-, -, rfl, -⟩ | ⟨k, p, -, -, rfl, -⟩ | ⟨-, -, rfl, -⟩ | ⟨-, -, rfl, -⟩ := hostMove_cases hm
  · exact ⟨hostReset_inv h.core, fun _ => ⟨rfl, rfl, rfl, rfl, rfl, rfl⟩⟩
  · exact ⟨hi.core.loadROM hfits, fun hn => absurd rfl hn⟩
  · have hbefore : h.phase ≠ .loaded := by simp [hphase]
    exact ⟨hi.core, fun _ => hi.before_load hbefore⟩
  · exact ⟨stepKeepsInvariant _ _ hi.core ht, fun hn => absurd rfl hn⟩
  · exact ⟨hi.core.tickTimers, hi.before_load⟩
  · exact ⟨hi.core.setKey k p, hi.before_load⟩
  · exact hi
  · exact hi

/-- A sequence of moves that ends made its first move, and the rest from there (R197). -/
theorem hostRun_cons_inv {o : HostOp} {ops : List HostOp} {h h' : Session} (hr : hostRun (o :: ops) h = some h') :
    ∃ h₁ r, hostMove o h = some (h₁, r) ∧ hostRun ops h₁ = some h' := by
  cases hm : hostMove o h with
  | none => simp [hostRun, hm] at hr
  | some m => exact ⟨m.1, m.2, rfl, by simpa [hostRun, hm] using hr⟩

theorem hostRun_keeps_sessionInv (ops : List HostOp) {h h' : Session} (hi : SessionInv h)
    (hr : hostRun ops h = some h') : SessionInv h' := by
  induction ops generalizing h with
  | nil => cases hr; exact hi
  | cons o ops ih =>
    obtain ⟨h₁, r, hm, hrest⟩ := hostRun_cons_inv hr
    exact ih (hostMove_keeps_sessionInv hi hm) hrest

/-- Settles O55, by the ways a move can go, and then by induction on the sequence of moves. -/
theorem sessionsKeepInvariant : Obligations.SessionsKeepInvariant :=
  ⟨start_sessionInv, fun _ _ _ _ => hostMove_keeps_sessionInv, fun ops _ _ => hostRun_keeps_sessionInv ops⟩

/-! ### The timers and the keypad (R194, R195) -/

theorem toNat_tickDown (b : Byte) : (tickDown b).toNat = b.toNat - 1 := by
  rw [tickDown]
  split
  · simp [*]
  · bv_omega

theorem tickTimers_iterate (n : Nat) (s : State) :
    (tickTimers^[n] s).DT.toNat = s.DT.toNat - n ∧ (tickTimers^[n] s).ST.toNat = s.ST.toNat - n ∧
      ChangesOnly (fun c => c = .DT ∨ c = .ST) s (tickTimers^[n] s) := by
  induction n with
  | zero => exact ⟨rfl, rfl, ChangesOnly.refl _ s⟩
  | succ n ih =>
    obtain ⟨hDT, hST, hframe⟩ := ih
    rw [Function.iterate_succ_apply']
    refine ⟨?_, ?_, hframe.trans (tickTimers_frame _)⟩
    · exact (toNat_tickDown _).trans (by rw [hDT, Nat.sub_sub])
    · exact (toNat_tickDown _).trans (by rw [hST, Nat.sub_sub])

/-- Settles O48, by induction on the number of ticks. -/
theorem tickTimersCountDownAndHold : Obligations.TickTimersCountDownAndHold :=
  ⟨tickTimers_iterate, fun _ hp => hostMove_of_not_failed hp nofun nofun⟩

/-- Settles O49: SetKey writes one entry of the keypad. -/
theorem setKeyWritesOneKey : Obligations.SetKeyWritesOneKey :=
  ⟨fun k p s => ⟨(keyPressed_setKey k k p s).trans (if_pos rfl), setKey_frame k p s⟩,
    fun _ _ _ hp => hostMove_of_not_failed hp nofun nofun⟩

/-! ### The readouts (R196, R198) -/

theorem length_getFramebuffer (s : State) : (getFramebuffer s).length = 2048 := by
  rw [getFramebuffer, length_flatMap_toList, Vector.length_toList]

theorem getFramebuffer_getElem? (s : State) (y : Fin 32) (x : Fin 64) :
    (getFramebuffer s)[y.val * 64 + x.val]? = some (pixel s.fb y x) :=
  getElem?_flatMap_toList 64 s.fb.toList y.val x.val x.isLt (by simp)

/-- Settles O50: both replies are read off the session, which stays. -/
theorem readoutsChangeNothing : Obligations.ReadoutsChangeNothing :=
  fun h hp => ⟨⟨getFramebuffer h.core, hostMove_of_not_failed hp nofun nofun, length_getFramebuffer h.core,
    getFramebuffer_getElem? h.core⟩, hostMove_of_not_failed hp nofun nofun⟩

/-! ### Loading a ROM (R191, R192) -/

/-- Settles O46: the ROM that fits is stored from 0x200 on, and every byte of it reads back. -/
theorem loadRomCopiesVerbatim : Obligations.LoadRomCopiesVerbatim := by
  intro bytes s hfits
  have hload := loadROM_ok s hfits
  refine ⟨_, hload, fun i b hb => memRead_storeBytes_of_getElem? hb s.mem 0x200,
    setMem_storeBytes_frame s 0x200 bytes, ?_⟩
  rw [hostMove_of_allowed rfl]
  simp only [hostEffect, hload]

/-- Settles O47: the ROM that is too long fails the host with the state it had, and a failed host has no Step. -/
theorem loadRomRefusesLongRom : Obligations.LoadRomRefusesLongRom := by
  intro bytes s hlong
  have hload := loadROM_tooLong s hlong
  refine ⟨hload, ?_, hostMove_eq_none_iff.2 rfl⟩
  rw [hostMove_of_allowed rfl]
  simp only [hostEffect, hload]

end Sys2Proof.Machine
end

section
/-! The exceptions' family of statements (spec 60_exceptions.md): a latched error outlasts every Step and every operation of the host but reset. -/

namespace Sys2Proof.Machine

/-! ### Stepping with an error latched (R218) -/

/-- No Step clears an error. -/
theorem noError_of_step {s t : State} (hs : step s = .next t) (ht : t.err = .noError) : s.err = .noError := by
  by_contra herr
  cases (step_of_halted herr).symm.trans hs
  exact herr ht

theorem SafeRun.noError_start {k : Nat} {s t : State} (hrun : SafeRun k s t) : s.err = .noError := by
  induction k generalizing s with
  | zero =>
    obtain ⟨rfl, ht⟩ := hrun
    exact ht
  | succ k ih =>
    obtain ⟨u, hs, hrest⟩ := hrun
    exact noError_of_step hs (ih hrest)

/-- Settles O59, by induction on the number of Steps. -/
theorem safeRunStartsWithoutError : Obligations.SafeRunStartsWithoutError :=
  fun _ _ _ hrun => hrun.noError_start

/-! ### The host's operations with an error latched (R218, R85) -/

/-- What an operation of the host may write once an error is latched: a Step nothing (R85, D13), reset anything. -/
def haltedMayWrite (o : HostOp) (c : Component) : Prop :=
  match o with
  | .reset => True
  | .loadROM bytes => ∃ i < bytes.length, c = .memByte (0x200 + i)
  | .tickTimers => c = .DT ∨ c = .ST
  | .setKey k _ => c = .key k
  | .step | .getFramebuffer | .getDiagnostics => False

theorem hostMove_frame_of_halted {o : HostOp} {h h' : Session} {r : HostReply} (herr : h.core.err ≠ .noError)
    (hm : hostMove o h = some (h', r)) : ChangesOnly (haltedMayWrite o) h.core h'.core := by
  obtain ⟨rfl, -, -⟩ | ⟨bytes, rfl, -, ⟨-, rfl, -⟩ | ⟨-, rfl, -⟩⟩ | ⟨rfl, -, t, ht, rfl, -⟩ |
    ⟨rfl, -, rfl, -⟩ | ⟨k, p, rfl, -, rfl, -⟩ | ⟨rfl, -, rfl, -⟩ | ⟨rfl, -, rfl, -⟩ := hostMove_cases hm
  · exact fun _ hc => absurd trivial hc
  · exact setMem_storeBytes_frame h.core 0x200 bytes
  · exact ChangesOnly.refl _ _
  · cases (step_of_halted herr).symm.trans ht
    exact ChangesOnly.refl _ _
  · exact tickTimers_frame h.core
  · exact setKey_frame k p h.core
  · exact ChangesOnly.refl _ _
  · exact ChangesOnly.refl _ _

/-- The operations but reset are not allowed the error record. -/
theorem not_haltedMayWrite_error {o : HostOp} (ho : o ≠ .reset) :
    ¬ haltedMayWrite o .err ∧ ¬ haltedMayWrite o .errInfo := by
  cases o
  case reset => exact absurd rfl ho
  all_goals simp [haltedMayWrite]

/-- A frame that leaves out `err` and `err_info` keeps what the host reads of them (R211). -/
theorem ChangesOnly.structuredError_eq {may : Component → Prop} {s t : State} (hf : ChangesOnly may s t)
    (hkept : ¬ may .err ∧ ¬ may .errInfo) : structuredError t = structuredError s := by
  obtain ⟨hnoErr, hnoInfo⟩ := hkept
  have herr : t.err = s.err := hf .err hnoErr
  have hinfo : t.errInfo = s.errInfo := hf .errInfo hnoInfo
  rw [structuredError, structuredError, herr, hinfo]

/-- A move that the host has is the operation's effect (R190). -/
theorem hostEffect_of_hostMove {o : HostOp} {h : Session} {m : Session × HostReply} (hm : hostMove o h = some m) :
    hostEffect o h = some m :=
  (Option.ite_none_right_eq_some.1 hm).2

theorem hostEffect_step_of_halted {h : Session} (herr : h.core.err ≠ .noError) :
    hostEffect .step h = some (h, .opcode h.core.IR) := by
  simp only [hostEffect, step_of_halted herr]

/-- Settles O56: a halted Step, the readouts and reset by their effects, the error record and each operation's own part by
the one frame of a halted session. -/
theorem errorLatchesUntilReset : Obligations.ErrorLatchesUntilReset := by
  intro h h' r herr
  refine ⟨fun hm => ?step, hostMove_frame_of_halted herr, fun _ _ => hostMove_frame_of_halted herr,
    fun _ => hostMove_frame_of_halted herr, fun hm => ?framebuffer, fun hm => ?diagnostics, fun o ho hm => ?record,
    fun hm => ?reset⟩
  case step => cases (hostEffect_step_of_halted herr).symm.trans (hostEffect_of_hostMove hm); exact ⟨rfl, rfl⟩
  case framebuffer | diagnostics => cases hostEffect_of_hostMove hm; rfl
  case record => exact (hostMove_frame_of_halted herr hm).structuredError_eq (not_haltedMayWrite_error ho)
  case reset => cases hostEffect_of_hostMove hm; rfl

end Sys2Proof.Machine
end
